-- ==== Sys2Proof/Word.lean ====
section
/-! DEFINITION. The widths of the values the block moves (spec/20_memory.md R80, spec/10_state.md R25). -/

namespace Sys2Proof

/-- One byte: a wire byte, a slave id, a byte of a buffer. -/
abbrev Byte := BitVec 8

/-- A 16-bit value: the CRC, a start address, a register count, one holding register. -/
abbrev Half := BitVec 16

/-- A host word: every host access moves 32 bits (R75). -/
abbrev Word := BitVec 32

/-- A byte offset in the host register space, 0x000 to 0xFFF (R25). -/
abbrev Offset := BitVec 12

end Sys2Proof
end

