-- ==== Sys2Proof/Config.lean ====
section
/-! DEFINITION. The parameters the spec leaves OPEN (spec/00_scope.md R10, spec/93_implementation_defined.md I1, I2). -/

namespace Sys2Proof

/-- The three OPEN parameters of one block. They are held in `State.cfg`, so that a statement about every state is a
statement about every choice of them. RX_CAP lies in 5..260: it is stored as its distance above 5, an 8-bit range. -/
structure Config where
  /-- RX_CAP - 5 (R10: 5 <= RX_CAP <= 260). -/
  rxRoom : Fin 256
  /-- T_PRE_MS, the settling delay in whole ms, >= 0. -/
  tPreMs : Nat
  /-- T_POST_MS, the post-transmit delay in whole ms, >= 0. -/
  tPostMs : Nat
deriving DecidableEq, Repr

namespace Config

/-- RX_CAP, the receive buffer's capacity in bytes. -/
def rxCap (c : Config) : Nat := c.rxRoom.val + 5

/-- The parameters of the block that `State.reset` is the reset state of. OPEN in the spec, so no value is given:
nothing can be proved about them but their ranges (notes/assumptions/5.md). -/
opaque openRxRoom : Fin 256
opaque openTPreMs : Nat
opaque openTPostMs : Nat

/-- The block's own parameters, every one of them open. -/
def platform : Config := ⟨openRxRoom, openTPreMs, openTPostMs⟩

end Config

end Sys2Proof
end

