-- ==== Sys2Proof/Machine/Params.lean ====
section
/-! DEFINITION. The fixed parameters of spec/00_scope.md R9 and the byte-order helpers of spec/20_memory.md R71, R72. -/

namespace Sys2Proof.Machine

/-- CRC_POLY: applied, reflected, on a 1 shifted out (R9). -/
def crcPoly : Half := 0xA001

/-- CRC_SEED (R9). -/
def crcSeed : Half := 0xFFFF

/-- FC_READ_HOLDING (R9): the framer always writes it, whatever OP the command had (R101). -/
def fcReadHolding : Byte := 0x03

/-- REQ_LEN (R9). -/
def reqLen : Nat := 8

/-- HDR_LEN (R9). -/
def hdrLen : Nat := 3

/-- CRC_LEN (R9). -/
def crcLen : Nat := 2

/-- T_RESP_MS, measured from the end of transmission (R9, R168). -/
def tRespMs : Nat := 1000

/-- `v[15:8]` (R11). -/
def hiByte (v : Half) : Byte := v.extractLsb' 8 8

/-- `v[7:0]` (R11). -/
def loByte (v : Half) : Byte := v.extractLsb' 0 8

/-- `{hi, lo}`: `hi` in bits 15:8 (R11). -/
def pair (hi lo : Byte) : Half := hi ++ lo

end Sys2Proof.Machine
end

