-- ==== Sys2Proof/Machine/CrcEngine.lean ====
section
/-! DEFINITION. The CRC engine as pure functions (spec/40_crc.md R140-R147). -/

namespace Sys2Proof.Machine

/-- One bit step (R141): shift right one bit, XOR in CRC_POLY when the bit shifted out was 1. -/
def crcBit (c : Half) : Half :=
  if c.getLsbD 0 then (c >>> 1) ^^^ crcPoly else c >>> 1

/-- `n` bit steps. -/
def crcBits : Nat → Half → Half
  | 0, c => c
  | n + 1, c => crcBits n (crcBit c)

/-- The byte update (R142): XOR the byte into the low byte, then eight bit steps. -/
def crcByte (c : Half) (b : Byte) : Half := crcBits 8 (c ^^^ b.setWidth 16)

/-- `crcByte` folded over a sequence, first byte first, from the running value `c` (R144). -/
def crcFold (c : Half) (s : List Byte) : Half := s.foldl crcByte c

/-- The sequence function (R144). Its result is the running value itself: no final XOR, reversal or swap (R143). -/
def crc16 (s : List Byte) : Half := crcFold crcSeed s

/-- A message with its CRC behind it, low byte first (R145). -/
def appendCrc (m : List Byte) : List Byte := m ++ [loByte (crc16 m), hiByte (crc16 m)]

/-- The check of a frame of n >= 2 bytes (R146): the CRC of all bytes but the last two, against those two read low byte
first. -/
def crcOk (f : List Byte) : Bool :=
  2 ≤ f.length && crc16 (f.take (f.length - 2)) = pair (f.getD (f.length - 1) 0) (f.getD (f.length - 2) 0)

end Sys2Proof.Machine
end

