-- ==== Sys2Proof/Syntax.lean ====
section
/-! DEFINITION. The instructions: one constructor per row of spec/opcode_table.json, and the host's registers. -/

namespace Sys2Proof

/-- The block's "instruction set" is the protocol it implements (R2): the host's command words (R100-R104) and the wire
frames it builds and parses (R105-R110). A wire frame's constructor holds what the block reads or writes as the frame's
operands: of a request the three values of R105 (its CRC is computed, never an operand, R106); of a response the three header
bytes, whose bit 7 of byte 1 is the constructor (R109, R110). The data and CRC bytes that follow are read one byte a step
out of the transport's queue (R178), and `ResponseFrame` below is the whole frame. -/
inductive Instr where
  /-- CRC_INIT, OP 0x01 (R101, R149). -/
  | crcInit
  /-- CRC_BYTE, OP 0x02, with the byte CMD[15:8] it folds (R101, R102, R150). -/
  | crcByte (data : Byte)
  /-- READ_HOLDING, OP 0x03; its operands are the registers SLAVE, ADDR, COUNT and MAXREGS (R101, R102, R160). -/
  | readHolding
  /-- A command word whose OP is not 0x01, 0x02 or 0x03 (R104). -/
  | illegalCmd (op : Byte)
  /-- REQ8, the request frame the framer builds (R105, R162). -/
  | req8 (slaveId : Byte) (startAddr regCount : Half)
  /-- RSPN, a normal response: byte 0, the low seven bits of byte 1 (bit 7 is 0), byte 2 (R107, R176). -/
  | rspn (slaveId : Byte) (fc : BitVec 7) (byteCount : Byte)
  /-- RSPX, an exception response: byte 0, the low seven bits of byte 1 (bit 7 is 1), byte 2 (R108, R174). -/
  | rspx (slaveId : Byte) (fc : BitVec 7) (exceptionCode : Byte)
deriving DecidableEq, Repr

/-- Where an instruction's bits stand: in a command word, in a frame the block transmits, or in the header of a frame it
receives. -/
inductive Code where
  | cmd (w : Word)
  | sent (frame : List Byte)
  | received (header : List Byte)
deriving DecidableEq, Repr

/-- Why bytes are not an instruction, by name. A command word and three header bytes are always one (R104, R112). -/
inductive DecodeError where
  /-- Fewer than the 3 header bytes: nothing is interpreted before them (R173). -/
  | headerIncomplete
  /-- Not the exact number of bytes the format has (R105, R107, R108). -/
  | wrongLength
  /-- Byte 1 of a request is not 0x03 (R105). -/
  | notReadHolding
  /-- Bytes 6 and 7 of a request are not its CRC, low byte first (R105, R106). -/
  | wrongRequestCrc
deriving DecidableEq, Repr

/-- A whole response frame as it lies on the wire, its CRC bytes as they came (R107, R108). -/
inductive ResponseFrame where
  /-- `[slaveId][0 fc][byteCount][data:byteCount][crcLo][crcHi]`. -/
  | normal (slaveId : Byte) (fc : BitVec 7) (data : List Byte) (crc : Half)
  /-- `[slaveId][1 fc][exceptionCode][crcLo][crcHi]`. -/
  | exception (slaveId : Byte) (fc : BitVec 7) (exceptionCode : Byte) (crc : Half)
deriving DecidableEq, Repr

/-- The host-visible registers of R25. -/
inductive HostReg where
  | cmd | status | slave | addr | count | maxregs | result | crc | rxinfo | rxcrc | txcrc
  /-- REG[i], i = 0..127 (R37). -/
  | reg (i : Fin 128)
  /-- RXBYTE[j], j = 0..259 (R38). -/
  | rxbyte (j : Fin 260)
deriving DecidableEq, Repr

/-- How wide a host access is. Only a whole word reaches a register (R75). -/
inductive AccessWidth where
  | byte | half | word
deriving DecidableEq, Repr

end Sys2Proof
end

