-- ==== Sys2Proof/Machine/Frames.lean ====
section
/-! DEFINITION. The wire frames, bit for bit (spec/30_encoding.md R105-R111). -/

namespace Sys2Proof.Machine

/-- Bytes 0 to 5 of the request: slave id, 0x03, start address and register count, each high byte first (R105, R106). -/
def requestHead (slaveId : Byte) (startAddr regCount : Half) : List Byte :=
  [slaveId, fcReadHolding, hiByte startAddr, loByte startAddr, hiByte regCount, loByte regCount]

/-- The CRC of the request, over bytes 0 to 5 (R106). -/
def requestCrc (slaveId : Byte) (startAddr regCount : Half) : Half := crc16 (requestHead slaveId startAddr regCount)

/-- The whole request frame REQ8, 8 bytes (R105). -/
def requestFrame (slaveId : Byte) (startAddr regCount : Half) : Vector Byte 8 :=
  #v[slaveId, fcReadHolding, hiByte startAddr, loByte startAddr, hiByte regCount, loByte regCount,
    loByte (requestCrc slaveId startAddr regCount), hiByte (requestCrc slaveId startAddr regCount)]

/-- The function-code byte: the exception bit above the seven bits the block never compares (R109). -/
def fcByte (isException : Bool) (fc : BitVec 7) : Byte := BitVec.ofBool isException ++ fc

/-- Bit 7 of the function-code byte alone says which format a response has (R109). -/
def isException (fcByte : Byte) : Bool := fcByte.getLsbD 7

/-- TOTAL of a normal response, from its byte count: 3 + byteCount + 2 (R110). -/
def totalLength (byteCount : Byte) : Nat := hdrLen + byteCount.toNat + crcLen

/-- The complete registers a normal response carries: floor(byteCount / 2) (R110). -/
def carriedRegs (byteCount : Byte) : Nat := byteCount.toNat / 2

/-- A normal response as a conforming slave builds it (R107): the byte count is the data's length, the CRC appended. -/
def responseFrame (slaveId : Byte) (fc : BitVec 7) (data : List Byte) : List Byte :=
  appendCrc (slaveId :: fcByte false fc :: BitVec.ofNat 8 data.length :: data)

/-- An exception response as a conforming slave builds it (R108). -/
def exceptionFrame (slaveId : Byte) (fc : BitVec 7) (code : Byte) : List Byte :=
  appendCrc [slaveId, fcByte true fc, code]

end Sys2Proof.Machine
end

