-- ==== Sys2Proof/WellFormed.lean ====
section
/-! DEFINITION. Which terms of the syntax are an encoding of the spec. -/

namespace Sys2Proof

/-- The opcodes R101 gives a meaning. -/
def legalOps : List Byte := [0x01, 0x02, 0x03]

/-- A well-formed instruction. Every field but one may hold every value of its width: R28-R31 and R106 range-check no
operand, R109 leaves the low seven bits of the function code free. An illegal command's OP is none of the legal ones (R104). -/
def Instr.wf : Instr → Bool
  | .crcInit => true
  | .crcByte _ => true
  | .readHolding => true
  | .illegalCmd op => !legalOps.contains op
  | .req8 _ _ _ => true
  | .rspn _ _ _ => true
  | .rspx _ _ _ => true

/-- A well-formed whole response frame: its byte count is one byte (R107). -/
def ResponseFrame.wf : ResponseFrame → Bool
  | .normal _ _ data _ => data.length ≤ 255
  | .exception _ _ _ _ => true

end Sys2Proof
end

