-- ==== Sys2Proof/Decode.lean ====
section
/-! DEFINITION. The decoder, total on any bits, and the encoder (spec/30_encoding.md). -/

namespace Sys2Proof

open Sys2Proof.Machine

/-- OP = CMD[7:0] (R100). -/
def opField (w : Word) : Byte := w.extractLsb' 0 8

/-- DATA = CMD[15:8] (R100). -/
def dataField (w : Word) : Byte := w.extractLsb' 8 8

/-- A command word, decoded on OP alone (R101); DATA is CRC_BYTE's operand and ignored elsewhere, bits 31:16 are always
ignored (R103). Every other OP is the illegal command (R104). -/
def decodeCmd (w : Word) : Instr :=
  if opField w = 0x01 then .crcInit
  else if opField w = 0x02 then .crcByte (dataField w)
  else if opField w = 0x03 then .readHolding
  else .illegalCmd (opField w)

/-- The header of a response, classified by bit 7 of byte 1 alone (R109). -/
def decodeHeader (b0 b1 b2 : Byte) : Instr :=
  if isException b1 then .rspx b0 (b1.extractLsb' 0 7) b2 else .rspn b0 (b1.extractLsb' 0 7) b2

/-- The bytes of a received frame: exactly the first three are interpreted (R173); what follows is data and CRC. -/
def decodeReceived : List Byte → Except DecodeError Instr
  | b0 :: b1 :: b2 :: _ => .ok (decodeHeader b0 b1 b2)
  | _ => .error .headerIncomplete

/-- The bytes of a transmitted frame, which is REQ8 or nothing (R105). -/
def decodeSent : List Byte → Except DecodeError Instr
  | [b0, b1, b2, b3, b4, b5, b6, b7] =>
    if b1 ≠ fcReadHolding then .error .notReadHolding
    else if pair b7 b6 ≠ requestCrc b0 (pair b2 b3) (pair b4 b5) then .error .wrongRequestCrc
    else .ok (.req8 b0 (pair b2 b3) (pair b4 b5))
  | _ => .error .wrongLength

/-- The decoder. -/
def decode : Code → Except DecodeError Instr
  | .cmd w => .ok (decodeCmd w)
  | .sent f => decodeSent f
  | .received h => decodeReceived h

/-- A command word from its DATA and OP; the reserved bits are written 0 (R100). -/
def cmdWord (data op : Byte) : Word := (0#16 ++ data ++ op : BitVec (16 + 8 + 8))

/-- The encoder: the bits of an instruction from the tables of R100, R101, R105, R107 and R108. -/
def encode : Instr → Code
  | .crcInit => .cmd (cmdWord 0 0x01)
  | .crcByte data => .cmd (cmdWord data 0x02)
  | .readHolding => .cmd (cmdWord 0 0x03)
  | .illegalCmd op => .cmd (cmdWord 0 op)
  | .req8 slaveId startAddr regCount => .sent (requestFrame slaveId startAddr regCount).toList
  | .rspn slaveId fc byteCount => .received [slaveId, fcByte false fc, byteCount]
  | .rspx slaveId fc code => .received [slaveId, fcByte true fc, code]

/-- A whole response frame read from its bytes: its length is told by the header alone (R108, R110), and the last two
bytes are the CRC, low byte first (R72). -/
def decodeFrame : List Byte → Except DecodeError ResponseFrame
  | b0 :: b1 :: b2 :: rest =>
    if isException b1 then
      match rest with
      | [lo, hi] => .ok (.exception b0 (b1.extractLsb' 0 7) b2 (pair hi lo))
      | _ => .error .wrongLength
    else
      match rest.drop b2.toNat with
      | [lo, hi] => .ok (.normal b0 (b1.extractLsb' 0 7) (rest.take b2.toNat) (pair hi lo))
      | _ => .error .wrongLength
  | _ => .error .headerIncomplete

/-- A whole response frame's bytes (R107, R108). -/
def encodeFrame : ResponseFrame → List Byte
  | .normal slaveId fc data crc =>
    slaveId :: fcByte false fc :: BitVec.ofNat 8 data.length :: (data ++ [loByte crc, hiByte crc])
  | .exception slaveId fc code crc => [slaveId, fcByte true fc, code, loByte crc, hiByte crc]

/-- The instruction read from a row's bits as spec/opcode_table.json numbers them. A row of the command format has 32 bits:
the command word. A row of a wire format gives 8 bits, the function-code byte (the table's "selector": byte 1 of the frame),
every other operand byte 0. The byte 0x03 is the whole of REQ8's row; every other byte is told apart by bit 7, RSPN or RSPX
(notes/assumptions/10.md). -/
def decodeTableWord (nbits w : Nat) : Option Instr :=
  let code : Code :=
    if nbits = 8 then
      if BitVec.ofNat 8 w = fcReadHolding then .sent (requestFrame 0 0 0).toList
      else .received [0, BitVec.ofNat 8 w, 0]
    else .cmd (BitVec.ofNat 32 w)
  (decode code).toOption

end Sys2Proof
end

