-- ==== Sys2Proof/Machine/State.lean ====
section
/-! DEFINITION. The state of the block, its transport, its host and time, as plain data (spec/10_state.md R20-R51). -/

namespace Sys2Proof.Machine

/-- STATE, the controller's sequencing register (R40). Its values 6 and 7 never occur. -/
inductive CtrlState where
  | idle | preDelay | tx | postDelay | rxHeader | rxBody
deriving DecidableEq, Repr

/-- ERR_KIND, the failure kind of the last completed transaction (R32, R221). Its values 6 and 7 never occur. -/
inductive ErrKind where
  | none | headerTimeout | bodyTimeout | protocolException | responseTooLarge | crcMismatch
deriving DecidableEq, Repr

/-- The status flags (R27, R51). -/
structure Status where
  busy : Bool
  done : Bool
  ok : Bool
  cmdErr : Bool
deriving DecidableEq, Repr

/-- RESULT's fields (R32). -/
structure Result where
  errKind : ErrKind
  excCode : Byte
  nRegs : Byte
deriving DecidableEq, Repr

/-- The four operands of READ_HOLDING: SLAVE_ID, START_ADDR, REG_COUNT and MAX_REGS (R28-R31), or their latched copies
L_SLAVE, L_ADDR, L_COUNT and L_MAX (R41). -/
structure Operands where
  slaveId : Byte
  startAddr : Half
  regCount : Half
  maxRegs : Byte
deriving DecidableEq, Repr

/-- The contents of the receive buffer: (index, byte) pairs, indexes strictly rising, no entry equal to what an unlisted
index reads as (`Memory.unlisted`). -/
abbrev Memory := List Host.Cell

/-- One step of the labelled transition system of R13, as the agents of R20 take them. -/
inductive Label where
  /-- The host writes `v` at `off` (R76). -/
  | hostWrite (width : AccessWidth) (off : Offset) (v : Word)
  /-- The host reads at `off` (R76). -/
  | hostRead (width : AccessWidth) (off : Offset)
  /-- The transport appends a received byte to its inbound queue (R23). -/
  | rxArrive (b : Byte)
  /-- The transport becomes ready to take a pushed byte, or stops being so (R23, R166). -/
  | txReady (ready : Bool)
  /-- The transport reports that transmission is physically complete (R23, R167). -/
  | txComplete
  /-- One internal step of the controller (R13). -/
  | internal
  /-- One millisecond passes (R24). -/
  | tick
  /-- Reset (R260). -/
  | reset
deriving DecidableEq, Repr

/-- The whole system. The spec's names stand in the docstrings. -/
structure State where
  /-- RX_CAP, T_PRE_MS, T_POST_MS: fixed for the block, no step changes them (R10). -/
  cfg : Config
  /-- STATUS.BUSY, DONE, OK, CMDERR (R27). -/
  status : Status
  /-- SLAVE, ADDR, COUNT, MAXREGS (R28-R31). -/
  operands : Operands
  /-- ERR_KIND, EXC_CODE, NREGS (R32). -/
  result : Result
  /-- CRC_ACC, the host's accumulator (R33). -/
  crcAcc : Half
  /-- TXCRC (R36). -/
  txCrc : Half
  /-- CRC_CALC (R35). -/
  crcCalc : Half
  /-- CRC_RECV (R35). -/
  crcRecv : Half
  /-- STATE (R40). -/
  state : CtrlState
  /-- DE, the driver-enable output (R47). -/
  de : Bool
  /-- L_SLAVE, L_ADDR, L_COUNT, L_MAX (R41). -/
  latched : Operands
  /-- REQ[0..7] (R42). -/
  req : Vector Byte 8
  /-- TXIDX, 4 bits, 0..8 (R42). -/
  txIdx : BitVec 4
  /-- RX[0..RX_CAP-1] (R43). -/
  rx : Memory
  /-- RXLEN, 9 bits (R43). -/
  rxLen : BitVec 9
  /-- TOTAL, 9 bits (R43). -/
  total : BitVec 9
  /-- TMR, the delay timer in ms (R44). -/
  tmr : Nat
  /-- ELAPSED, the ms since TxComplete (R44). -/
  elapsed : Nat
  /-- INQ, the transport's inbound queue, oldest byte first (R46). -/
  inq : List Byte
  /-- Whether the transport is ready to take a byte (R23, R166). -/
  txReady : Bool
  /-- Every byte pushed to the transport, oldest first: what `TxPush` does, seen from the transport (R78). -/
  sent : List Byte
  /-- The word the host's last read returned (R76). -/
  readData : Word
  /-- What the host, the transport, time and the controller do next, in order: the data that says which step of R13
  comes next (notes/assumptions/1.md). -/
  agenda : List Label
deriving DecidableEq, Repr

/-- How a step can stop the model. The spec's block has no traps (R220). -/
inductive Fault where
  /-- Raised by a store of the response parser at an index outside RX[0..RX_CAP-1], a place that does not exist (R43, R79).
  Safe: no state that meets `Sys2Proof.Machine.BlockInv` raises it. -/
  | rxStoreOutOfBounds
deriving DecidableEq, Repr

/-- How a step can refuse. -/
inductive Refusal where
  /-- Raised by an arm of `exec` that has no meaning yet; no arm is left so. Safe. -/
  | notModelled (mnemonic : String)
deriving DecidableEq, Repr

/-- RESULT when nothing has completed (R32). -/
def Result.clear : Result := ⟨.none, 0, 0⟩

/-- The state right after reset: the table of R48, nothing in the receive buffer, and an environment that is silent
(the host, the transport and the agenda: notes/assumptions/7.md). -/
def State.reset : State where
  cfg := Config.platform
  status := ⟨false, false, false, false⟩
  operands := ⟨0, 0, 0, 0⟩
  result := Result.clear
  crcAcc := 0xFFFF
  txCrc := 0
  crcCalc := 0
  crcRecv := 0
  state := .idle
  de := false
  latched := ⟨0, 0, 0, 0⟩
  req := #v[0, 0, 0, 0, 0, 0, 0, 0]
  txIdx := 0
  rx := []
  rxLen := 0
  total := 0
  tmr := 0
  elapsed := 0
  inq := []
  txReady := true
  sent := []
  readData := 0
  agenda := []

end Sys2Proof.Machine
end

