-- ==== Sys2Proof/Machine/Flags.lean ====
section
/-! DEFINITION. The status flags, what writes them (spec/10_state.md R51), and the codes and words the host reads them in
(R27, R32, R34, R35). -/

namespace Sys2Proof.Machine

/-- A rejected CMD write sets CMDERR and nothing else (R51, R104). -/
def rejectedFlags (f : Status) : Status := { f with cmdErr := true }

/-- An accepted CRC_INIT or CRC_BYTE clears CMDERR and nothing else (R51). -/
def crcCommandFlags (f : Status) : Status := { f with cmdErr := false }

/-- An accepted READ_HOLDING sets BUSY and clears DONE, OK and CMDERR (R51, R161). -/
def acceptedFlags : Status := ⟨true, false, false, false⟩

/-- Completion clears BUSY, sets DONE, sets OK to (ERR_KIND = 0), and leaves CMDERR (R51, R190). -/
def completedFlags (k : ErrKind) (f : Status) : Status := { f with busy := false, done := true, ok := k = .none }

/-- The value of STATE (R40). -/
def stateCode : CtrlState → BitVec 3
  | .idle => 0
  | .preDelay => 1
  | .tx => 2
  | .postDelay => 3
  | .rxHeader => 4
  | .rxBody => 5

/-- The code of a failure kind (R32, R221). -/
def kindCode : ErrKind → BitVec 3
  | .none => 0
  | .headerTimeout => 1
  | .bodyTimeout => 2
  | .protocolException => 3
  | .responseTooLarge => 4
  | .crcMismatch => 5

/-- STATUS: BUSY in bit 0, DONE 1, OK 2, CMDERR 3, STATE in 10:8 (R27). -/
def statusWord (f : Status) (st : CtrlState) : Word :=
  (0#21 ++ stateCode st ++ 0#4 ++ BitVec.ofBool f.cmdErr ++ BitVec.ofBool f.ok ++ BitVec.ofBool f.done
    ++ BitVec.ofBool f.busy : BitVec (21 + 3 + 4 + 1 + 1 + 1 + 1))

/-- RESULT: ERR_KIND in bits 2:0, EXC_CODE in 15:8, NREGS in 23:16 (R32). -/
def resultWord (r : Result) : Word :=
  (0#8 ++ r.nRegs ++ r.excCode ++ 0#5 ++ kindCode r.errKind : BitVec (8 + 8 + 8 + 5 + 3))

/-- RXINFO: RXLEN in bits 8:0, TOTAL in 24:16 (R34). -/
def rxInfoWord (rxLen total : BitVec 9) : Word := (0#7 ++ total ++ 0#7 ++ rxLen : BitVec (7 + 9 + 7 + 9))

/-- RXCRC: CRC_CALC in bits 15:0, CRC_RECV in 31:16 (R35). -/
def rxCrcWord (computed received : Half) : Word := (received ++ computed : BitVec (16 + 16))

end Sys2Proof.Machine
end

