-- ==== Sys2Proof/Machine/Operands.lean ====
section
/-! DEFINITION. The host register space: which register an offset names, and the operand registers (spec/10_state.md R25,
R28-R31, R39). -/

namespace Sys2Proof.Machine

/-- The offset of a register in the map of R25. -/
def regOffset : HostReg → Nat
  | .cmd => 0x000
  | .status => 0x004
  | .slave => 0x008
  | .addr => 0x00C
  | .count => 0x010
  | .maxregs => 0x014
  | .result => 0x018
  | .crc => 0x01C
  | .rxinfo => 0x020
  | .rxcrc => 0x024
  | .txcrc => 0x028
  | .reg i => 0x100 + 4 * i.val
  | .rxbyte j => 0x400 + 4 * j.val

/-- The slot of a window of word-aligned offsets from `base` that offset `n` names, if it names one. -/
def windowSlot (base size n : Nat) : Option (Fin size) :=
  if h : (n - base) / 4 < size then if base ≤ n then some ⟨(n - base) / 4, h⟩ else none else none

/-- The register of an offset; `none` for one that is not word-aligned or names no register (R25, R39). -/
def regAt (off : Offset) : Option HostReg :=
  if off.toNat % 4 ≠ 0 then none
  else if off = 0x000 then some .cmd
  else if off = 0x004 then some .status
  else if off = 0x008 then some .slave
  else if off = 0x00C then some .addr
  else if off = 0x010 then some .count
  else if off = 0x014 then some .maxregs
  else if off = 0x018 then some .result
  else if off = 0x01C then some .crc
  else if off = 0x020 then some .rxinfo
  else if off = 0x024 then some .rxcrc
  else if off = 0x028 then some .txcrc
  else match windowSlot 0x100 128 off.toNat with
    | some i => some (.reg i)
    | none => (windowSlot 0x400 260 off.toNat).map .rxbyte

/-- The register an access of a width at an offset reaches: a narrower access than a word reaches none (R75). -/
def regReached (width : AccessWidth) (off : Offset) : Option HostReg :=
  match width with
  | .word => regAt off
  | .half => none
  | .byte => none

/-- SLAVE takes `v[7:0]` (R28). -/
def writeSlave (v : Word) (o : Operands) : Operands := { o with slaveId := v.extractLsb' 0 8 }

/-- ADDR takes `v[15:0]` (R29). -/
def writeAddr (v : Word) (o : Operands) : Operands := { o with startAddr := v.extractLsb' 0 16 }

/-- COUNT takes `v[15:0]` (R30). -/
def writeCount (v : Word) (o : Operands) : Operands := { o with regCount := v.extractLsb' 0 16 }

/-- MAXREGS takes `v[7:0]` (R31). -/
def writeMaxRegs (v : Word) (o : Operands) : Operands := { o with maxRegs := v.extractLsb' 0 8 }

end Sys2Proof.Machine
end

