-- ==== Sys2Proof/Machine/Ops.lean ====
section
/-! DEFINITION. The operations the instructions and the controller share: the receive buffer, the registers as the host
reads them, the framer, completion (the block's exception entry, R230) and acceptance (its return, R231), the transmitter,
the check of a frame, and time. -/

namespace Sys2Proof.Machine

/-! ### The receive buffer -/

/-- What an index of the receive buffer that lists nothing reads as. The spec leaves it unspecified and unobservable
(R43; notes/assumptions/6.md). -/
def Memory.unlisted : Byte := 0

/-- The canonical form: indexes strictly rising, no entry equal to what an unlisted index reads as. -/
def Memory.wf : Memory → Bool
  | [] => true
  | (a, b) :: m => b ≠ Memory.unlisted && m.all (fun c => a < c.1) && Memory.wf m

/-- RX[a]. -/
def Memory.read : Memory → Nat → Byte
  | [], _ => Memory.unlisted
  | (a, b) :: m, x => if a = x then b else Memory.read m x

/-- RX[x] <- v, keeping the canonical form. -/
def Memory.write : Memory → Nat → Byte → Memory
  | [], x, v => if v = Memory.unlisted then [] else [(x, v)]
  | (a, b) :: m, x, v =>
    if x < a then if v = Memory.unlisted then (a, b) :: m else (x, v) :: (a, b) :: m
    else if x = a then if v = Memory.unlisted then m else (x, v) :: m
    else (a, b) :: Memory.write m x v

/-- `RX[0..n)`, index 0 first (R11). -/
def rxBytes (m : Memory) (n : Nat) : List Byte := (List.range n).map (Memory.read m)

/-- RX[RXLEN] <- b; RXLEN <- RXLEN + 1, only while RXLEN < RX_CAP (R43, R79). A store at RX_CAP or above would fall outside the
buffer: it faults. -/
def storeByte (b : Byte) (s : State) : Host.Outcome State Fault Refusal :=
  if s.rxLen.toNat < s.cfg.rxCap then
    .next { s with rx := Memory.write s.rx s.rxLen.toNat b, rxLen := s.rxLen + 1 }
  else .fault .rxStoreOutOfBounds

/-! ### The registers as the host reads them -/

/-- Register `k` of the data region, high byte first (R37, R111). -/
def frameReg (m : Memory) (k : Nat) : Half := pair (Memory.read m (3 + 2 * k)) (Memory.read m (4 + 2 * k))

/-- REG[i]: a view of the receive buffer below NREGS, 0 elsewhere (R37). -/
def regView (s : State) (i : Nat) : Word := if i < s.result.nRegs.toNat then (frameReg s.rx i).setWidth 32 else 0

/-- RXBYTE[j]: a view of the receive buffer below RXLEN, 0 elsewhere (R38). -/
def rxByteView (s : State) (j : Nat) : Word := if j < s.rxLen.toNat then (Memory.read s.rx j).setWidth 32 else 0

/-- The word a register reads as (R26-R38). CMD is write-only and reads 0. -/
def readReg (s : State) : HostReg → Word
  | .cmd => 0
  | .status => statusWord s.status s.state
  | .slave => s.operands.slaveId.setWidth 32
  | .addr => s.operands.startAddr.setWidth 32
  | .count => s.operands.regCount.setWidth 32
  | .maxregs => s.operands.maxRegs.setWidth 32
  | .result => resultWord s.result
  | .crc => s.crcAcc.setWidth 32
  | .rxinfo => rxInfoWord s.rxLen s.total
  | .rxcrc => rxCrcWord s.crcCalc s.crcRecv
  | .txcrc => s.txCrc.setWidth 32
  | .reg i => regView s i.val
  | .rxbyte j => rxByteView s j.val

/-- HostRead (R76): the word an access returns. An access that reaches no register returns 0 (R39, R75). -/
def hostRead (width : AccessWidth) (off : Offset) (s : State) : Word :=
  match regReached width off with
  | some r => readReg s r
  | none => 0

/-- What READ_HOLDING returns to its caller (R16). -/
inductive ReadResult where
  | outstanding
  | ok (registers : List Half)
  | err (kind : ErrKind) (excCode : Byte)
deriving DecidableEq, Repr

/-- The pair STATUS.OK / RESULT with the REG window, as R16 and R182 read it: nothing before DONE, the registers
REG[0..NREGS-1] when OK, the failure kind otherwise. -/
def readResult (s : State) : ReadResult :=
  if s.status.done then
    if s.status.ok then .ok ((List.range s.result.nRegs.toNat).map (frameReg s.rx))
    else .err s.result.errKind s.result.excCode
  else .outstanding

/-! ### Commands -/

/-- A rejected CMD write has exactly one effect: CMDERR <- 1 (R104). -/
def rejectCommand (s : State) : State := { s with status := rejectedFlags s.status }

/-- CRC_ACC <- c; CMDERR <- 0: what both host commands of the engine do (R149, R150). -/
def setCrcAcc (c : Half) (s : State) : State := { s with crcAcc := c, status := crcCommandFlags s.status }

/-- The framer (R162): REQ takes the eight bytes, TXCRC their CRC. -/
def frameRequest (slaveId : Byte) (startAddr regCount : Half) (s : State) : State :=
  { s with req := requestFrame slaveId startAddr regCount, txCrc := requestCrc slaveId startAddr regCount }

/-- RxFlush (R163): every byte of the inbound queue is discarded. -/
def flushInbound (s : State) : State := { s with inq := [] }

/-- The operands are latched (R41, R161). -/
def latchOperands (s : State) : State := { s with latched := s.operands }

/-- What acceptance clears of the previous transaction, and the flags it sets (R161): the block's return from a
completion (R231). -/
def clearResults (s : State) : State :=
  { s with status := acceptedFlags, result := Result.clear, rxLen := 0, total := 0, crcCalc := 0, crcRecv := 0 }

/-- The timers and TXIDX start at 0 and STATE becomes PRE_DELAY (R161). -/
def startTransaction (s : State) : State := { s with tmr := 0, elapsed := 0, txIdx := 0, state := .preDelay }

/-- Acceptance of READ_HOLDING, all in one step (R161): latch, clear, frame from the latched operands, flush, start. -/
def acceptTransaction (s : State) : State :=
  let l := clearResults (latchOperands s)
  startTransaction (flushInbound (frameRequest l.latched.slaveId l.latched.startAddr l.latched.regCount l))

/-! ### Completion: the block's exception entry -/

/-- `finish(k, e, n)` (R190, R230): RESULT and the flags are written together, STATE returns to IDLE; everything else is
kept. -/
def finish (k : ErrKind) (e n : Byte) (s : State) : State :=
  { s with result := ⟨k, e, n⟩, status := completedFlags k s.status, state := .idle }

/-! ### Transmitter -/

/-- PRE_DELAY end (R165): STATE <- TX; DE <- 1. -/
def beginTransmit (s : State) : State := { s with state := .tx, de := true }

/-- REQ[i], for an index of the request buffer. -/
def reqByte (s : State) (i : Nat) : Byte := if h : i < 8 then s.req[i] else 0

/-- TX push (R166): TxPush(REQ[TXIDX]); TXIDX <- TXIDX + 1. -/
def pushByte (s : State) : State := { s with sent := s.sent ++ [reqByte s s.txIdx.toNat], txIdx := s.txIdx + 1 }

/-- TxComplete (R167): STATE <- POST_DELAY; DE <- 0; both timers 0, which opens the deadline window. -/
def endTransmit (s : State) : State := { s with state := .postDelay, de := false, tmr := 0, elapsed := 0 }

/-- POST_DELAY end (R170). -/
def beginReceive (s : State) : State := { s with state := .rxHeader }

/-! ### Check of a whole frame -/

/-- CRC_CALC and CRC_RECV of a frame of TOTAL bytes (R179). -/
def recordCrcs (s : State) : State :=
  { s with crcCalc := crc16 (rxBytes s.rx (s.total.toNat - crcLen)),
           crcRecv := pair (Memory.read s.rx (s.total.toNat - 1)) (Memory.read s.rx (s.total.toNat - 2)) }

/-- The number of registers a success returns: min(floor(RX[2] / 2), L_MAX) (R181). -/
def returnedRegs (s : State) : Byte :=
  BitVec.ofNat 8 (min (carriedRegs (Memory.read s.rx 2)) s.latched.maxRegs.toNat)

/-- The check of R179 and its two ends: CrcMismatch (R180), success (R181). -/
def checkFrame (s : State) : State :=
  let c := recordCrcs s
  if c.crcCalc = c.crcRecv then finish .none 0 (returnedRegs c) c else finish .crcMismatch 0 0 c

/-! ### Time -/

/-- The value TMR saturates at (R44). -/
def tmrLimit (c : Config) : Nat := max c.tPreMs c.tPostMs

/-- TMR <- min(TMR + 1, max(T_PRE_MS, T_POST_MS)) (R164, R169). -/
def tickTmr (s : State) : State := { s with tmr := min (s.tmr + 1) (tmrLimit s.cfg) }

/-- ELAPSED <- min(ELAPSED + 1, T_RESP_MS) (R168). -/
def tickElapsed (s : State) : State := { s with elapsed := min (s.elapsed + 1) tRespMs }

/-- A Tick, by STATE (R164, R168, R169, R171). -/
def tickTimers (s : State) : State :=
  match s.state with
  | .idle => s
  | .preDelay => tickTmr s
  | .tx => s
  | .postDelay => tickElapsed (tickTmr s)
  | .rxHeader => tickElapsed s
  | .rxBody => tickElapsed s

/-- Reset (R260): every piece of block state takes its reset value. The parameters are the block's; the transport is not
reset and its queue not flushed; the host and the agenda are not the block's (notes/assumptions/8.md). -/
def resetBlock (s : State) : State :=
  { State.reset with cfg := s.cfg, inq := s.inq, txReady := s.txReady, sent := s.sent, readData := s.readData,
                     agenda := s.agenda }

end Sys2Proof.Machine
end

