-- ==== Sys2Proof/Machine/Command.lean ====
section
/-! DEFINITION. The command words that are no command (spec/30_encoding.md R104). -/

namespace Sys2Proof.Machine

/-- An illegal OP is rejected, whatever its value (R104 (a)). -/
def execIllegalCmd (_op : Byte) (s : State) : Host.Outcome State Fault Refusal := .next (rejectCommand s)

end Sys2Proof.Machine
end

