-- ==== Sys2Proof/Machine/Crc.lean ====
section
/-! DEFINITION. The host commands of the CRC engine (spec/40_crc.md R149, R150). -/

namespace Sys2Proof.Machine

/-- CRC_INIT (R149), accepted in every STATE. -/
def execCrcInit (s : State) : Host.Outcome State Fault Refusal := .next (setCrcAcc crcSeed s)

/-- CRC_BYTE (R150), accepted in every STATE. -/
def execCrcByte (data : Byte) (s : State) : Host.Outcome State Fault Refusal :=
  .next (setCrcAcc (crcByte s.crcAcc data) s)

end Sys2Proof.Machine
end

