-- ==== Sys2Proof/Machine/Transaction.lean ====
section
/-! DEFINITION. READ_HOLDING and the wire frames of its transaction (spec/41_transaction.md). -/

namespace Sys2Proof.Machine

/-- READ_HOLDING (R160): accepted iff BUSY = 0, rejected otherwise with the transaction in flight untouched (R104 (b)). -/
def execReadHolding (s : State) : Host.Outcome State Fault Refusal :=
  if s.status.busy then .next (rejectCommand s) else .next (acceptTransaction s)

/-- REQ8 (R105, R162): the framer builds the frame in REQ and its CRC in TXCRC. The bytes then leave one a step (R166). -/
def execReq8 (slaveId : Byte) (startAddr regCount : Half) (s : State) : Host.Outcome State Fault Refusal :=
  .next (frameRequest slaveId startAddr regCount s)

/-- RSPN, once its header is in (R175, R176): ResponseTooLarge where the announced length exceeds RX_CAP, otherwise TOTAL is
set and the body read. Neither the slave id nor the low seven bits of the function code is compared with anything (R183). -/
def execRspn (_slaveId : Byte) (_fc : BitVec 7) (byteCount : Byte) (s : State) : Host.Outcome State Fault Refusal :=
  if s.cfg.rxCap < totalLength byteCount then .next (finish .responseTooLarge 0 0 s)
  else .next { s with total := BitVec.ofNat 9 (totalLength byteCount), state := .rxBody }

/-- RSPX, once its header is in (R174): ProtocolException with the third byte as its code; no further byte is read. -/
def execRspx (_slaveId : Byte) (_fc : BitVec 7) (exceptionCode : Byte) (s : State) :
    Host.Outcome State Fault Refusal :=
  .next (finish .protocolException exceptionCode 0 s)

end Sys2Proof.Machine
end

