-- ==== Sys2Proof/Machine/Dispatch.lean ====
section
/-! DEFINITION. The dispatch: one arm per constructor of Instr. -/

namespace Sys2Proof.Machine

def exec (i : Instr) (s : State) : Host.Outcome State Fault Refusal :=
  match i with
  | .crcInit => Sys2Proof.Machine.execCrcInit s
  | .crcByte data => Sys2Proof.Machine.execCrcByte data s
  | .readHolding => Sys2Proof.Machine.execReadHolding s
  | .illegalCmd op => Sys2Proof.Machine.execIllegalCmd op s
  | .req8 slaveId startAddr regCount => Sys2Proof.Machine.execReq8 slaveId startAddr regCount s
  | .rspn slaveId fc byteCount => Sys2Proof.Machine.execRspn slaveId fc byteCount s
  | .rspx slaveId fc exceptionCode => Sys2Proof.Machine.execRspx slaveId fc exceptionCode s

end Sys2Proof.Machine
end

