-- ==== Sys2Proof/Machine/Controller.lean ====
section
/-! DEFINITION. The labelled transition system: what each label does, which internal step is enabled, and which step comes
next (spec/00_scope.md R13, spec/10_state.md R45, spec/41_transaction.md R192). -/

namespace Sys2Proof.Machine

/-- HostWrite (R76). A write to CMD runs the command its word encodes; the RW registers take their field bits; a write that
reaches a read-only register, or none, has no effect (R39). -/
def hostWrite (width : AccessWidth) (off : Offset) (v : Word) (s : State) : Host.Outcome State Fault Refusal :=
  match regReached width off with
  | some .cmd => exec (decodeCmd v) s
  | some .slave => .next { s with operands := writeSlave v s.operands }
  | some .addr => .next { s with operands := writeAddr v s.operands }
  | some .count => .next { s with operands := writeCount v s.operands }
  | some .maxregs => .next { s with operands := writeMaxRegs v s.operands }
  | some .status | some .result | some .crc | some .rxinfo | some .rxcrc | some .txcrc => .next s
  | some (.reg _) | some (.rxbyte _) => .next s
  | none => .next s

/-- Whether an internal step of the controller is enabled (R165, R166, R170, R172, R173, R177, R178). -/
def internalEnabled (s : State) : Bool :=
  match s.state with
  | .idle => false
  | .preDelay => s.cfg.tPreMs ≤ s.tmr
  | .tx => s.txIdx.toNat < reqLen && s.txReady
  | .postDelay => s.cfg.tPostMs ≤ s.tmr
  | .rxHeader | .rxBody => tRespMs ≤ s.elapsed || !s.inq.isEmpty

/-- The examination of the three header bytes (R173-R176): the response's header is decoded and its instruction run. -/
def examineHeader (s : State) : Host.Outcome State Fault Refusal :=
  exec (decodeHeader (Memory.read s.rx 0) (Memory.read s.rx 1) (Memory.read s.rx 2)) s

/-- What follows a store in RX_HEADER (R173). -/
def afterHeaderByte (s : State) : Host.Outcome State Fault Refusal :=
  if s.rxLen.toNat = hdrLen then examineHeader s else .next s

/-- What follows a store in RX_BODY (R178). -/
def afterBodyByte (s : State) : Host.Outcome State Fault Refusal :=
  if s.rxLen = s.total then .next (checkFrame s) else .next s

/-- A store, then what follows it in the same step. -/
def storeThen (b : Byte) (s : State) (k : State → Host.Outcome State Fault Refusal) : Host.Outcome State Fault Refusal :=
  match storeByte b s with
  | .next t => k t
  | .fault r => .fault r
  | .refused r => .refused r

/-- One internal step of the controller; at most one is enabled in a state (R192, R229). Where none is, nothing changes. The
deadline is tested before any byte is taken (R172, R177). -/
def internalStep (s : State) : Host.Outcome State Fault Refusal :=
  if internalEnabled s then
    match s.state with
    | .idle => .next s
    | .preDelay => .next (beginTransmit s)
    | .tx => .next (pushByte s)
    | .postDelay => .next (beginReceive s)
    | .rxHeader =>
      if tRespMs ≤ s.elapsed then .next (finish .headerTimeout 0 0 s)
      else match s.inq with
        | [] => .next s
        | b :: rest => storeThen b { s with inq := rest } afterHeaderByte
    | .rxBody =>
      if tRespMs ≤ s.elapsed then .next (finish .bodyTimeout 0 0 s)
      else match s.inq with
        | [] => .next s
        | b :: rest => storeThen b { s with inq := rest } afterBodyByte
  else .next s

/-- Whether the transport's `TxComplete` is enabled (R167). -/
def txCompleteEnabled (s : State) : Bool := s.state = .tx && s.txIdx.toNat = reqLen

/-- The effect of one label. A TxComplete that is not enabled is no step of the system: it passes without effect
(notes/assumptions/2.md). -/
def runLabel (l : Label) (s : State) : Host.Outcome State Fault Refusal :=
  match l with
  | .hostWrite width off v => hostWrite width off v s
  | .hostRead width off => .next { s with readData := hostRead width off s }
  | .rxArrive b => .next { s with inq := s.inq ++ [b] }
  | .txReady ready => .next { s with txReady := ready }
  | .txComplete => if txCompleteEnabled s then .next (endTransmit s) else .next s
  | .internal => internalStep s
  | .tick => .next (tickTimers s)
  | .reset => .next (resetBlock s)

/-- What happens when the host and the transport do nothing: the controller's internal step while one is enabled, otherwise a
Tick (R45). -/
def runAlone (s : State) : Host.Outcome State Fault Refusal :=
  if internalEnabled s then internalStep s else .next (tickTimers s)

/-- The next step: the label at the head of the agenda. A Tick waits while an internal step is enabled, and that step is taken
instead (R45). An empty agenda leaves the block alone with time (notes/assumptions/3.md). -/
def nextStep (s : State) : Host.Outcome State Fault Refusal :=
  match s.agenda with
  | [] => runAlone s
  | l :: rest =>
    if l = .tick && internalEnabled s then internalStep s
    else runLabel l { s with agenda := rest }

/-- The state in which the next step runs the command word `w`: a host write of it to CMD stands first in the agenda. -/
def placeCommand (w : Word) (s : State) : State := { s with agenda := .hostWrite .word 0x000 w :: s.agenda }

/-- The state in which the next step examines the response `00 fc 00 00 00`: two header bytes are in the receive buffer, the
third and the CRC bytes wait in the queue, the deadline is open, and an internal step stands first in the agenda. -/
def placeResponse (fc : Byte) (s : State) : State :=
  { s with
    status := acceptedFlags, result := Result.clear, state := .rxHeader, de := false,
    rx := Memory.write (Memory.write s.rx 0 0) 1 fc, rxLen := 2, total := 0, crcCalc := 0, crcRecv := 0,
    txIdx := 8, elapsed := 0, inq := [0, 0, 0], agenda := .internal :: s.agenda }

/-- The state in which the next step frames the request `00 03 00 00 00 00` and its CRC: a frame comes to be only at the
acceptance of a READ_HOLDING (R161), so the operand registers hold the frame's operands, no transaction is outstanding, and
the command stands first in the agenda. -/
def placeRequest (s : State) : State :=
  placeCommand (cmdWord 0 0x03)
    { s with operands := { s.operands with slaveId := 0, startAddr := 0, regCount := 0 },
             status := { s.status with busy := false }, state := .idle, de := false }

/-- The state in which the next step runs the instruction `decodeTableWord nbits w` (notes/assumptions/9.md). -/
def placeTableWord (nbits w : Nat) (s : State) : State :=
  if nbits = 8 then
    if BitVec.ofNat 8 w = fcReadHolding then placeRequest s else placeResponse (BitVec.ofNat 8 w) s
  else placeCommand (BitVec.ofNat 32 w) s

end Sys2Proof.Machine
end

