-- ==== Sys2Proof/Machine/Step.lean ====
section
/-! DEFINITION. One step of the system. -/

namespace Sys2Proof.Machine

/-- One step of R13: the one the agenda says, or the block alone with time. -/
def step (s : State) : Host.Outcome State Fault Refusal := nextStep s

/-- `s` with a row of the opcode table placed so that the very next step runs it (notes/assumptions/9.md). -/
def State.withFetchWord (s : State) (nbits w : Nat) : State := placeTableWord nbits w s

end Sys2Proof.Machine
end

