-- ==== Sys2Proof/Safety.lean ====
section
/-! DEFINITION. The terms the statements use: the invariants of the block, what a completed transaction has recorded, what a
host can observe, and the environment's inputs. -/

namespace Sys2Proof.Machine

/-- The flags agree with the sequencing register (R27, R47, R51). -/
structure FlagsAgree (s : State) : Prop where
  /-- BUSY = 1 exactly when STATE != IDLE. -/
  busy : s.status.busy = true ↔ s.state ≠ .idle
  /-- DE = 1 exactly when STATE = TX. -/
  de : s.de = true ↔ s.state = .tx
  /-- BUSY and DONE are never both 1. -/
  notBoth : ¬ (s.status.busy = true ∧ s.status.done = true)
  /-- OK says that the completed transaction succeeded; it implies DONE. -/
  ok : s.status.ok = true ↔ s.status.done = true ∧ s.result.errKind = .none

/-- RESULT says nothing before a completion, and after one only what its kind allows (R32, R221). -/
structure ResultAgrees (s : State) : Prop where
  clear : s.status.done = false → s.result = Result.clear
  excCode : s.result.errKind ≠ .protocolException → s.result.excCode = 0
  nRegs : s.result.errKind ≠ .none → s.result.nRegs = 0
  nRegsBound : s.result.nRegs.toNat ≤ 127

/-- Nothing is stored outside RX[0..RX_CAP-1], and the lengths stay inside it (R43, R79). -/
structure BufferInBounds (s : State) : Prop where
  canonical : Memory.wf s.rx = true
  indexes : ∀ c ∈ s.rx, c.1 < s.cfg.rxCap
  rxLen : s.rxLen.toNat ≤ s.cfg.rxCap
  total : s.total.toNat ≤ s.cfg.rxCap

/-- What each STATE says of the counters and the buffer (R42, R43, R173, R176, R178). -/
def PhaseAgrees (s : State) : Prop :=
  match s.state with
  | .idle => True
  | .preDelay => s.txIdx = 0 ∧ s.rxLen = 0 ∧ s.total = 0
  | .tx => s.txIdx.toNat ≤ reqLen ∧ s.rxLen = 0 ∧ s.total = 0
  | .postDelay => s.txIdx.toNat = reqLen ∧ s.rxLen = 0 ∧ s.total = 0
  | .rxHeader => s.txIdx.toNat = reqLen ∧ s.rxLen.toNat < hdrLen ∧ s.total = 0
  | .rxBody =>
    s.txIdx.toNat = reqLen ∧ hdrLen ≤ s.rxLen.toNat ∧ s.rxLen.toNat < s.total.toNat ∧
      s.total.toNat = totalLength (Memory.read s.rx 2) ∧ isException (Memory.read s.rx 1) = false

/-- While a transaction is outstanding the request buffer holds the frame of the latched operands (R42, R161, R162). -/
def RequestHeld (s : State) : Prop :=
  s.status.busy = true →
    s.req = requestFrame s.latched.slaveId s.latched.startAddr s.latched.regCount ∧
      s.txCrc = requestCrc s.latched.slaveId s.latched.startAddr s.latched.regCount

/-- Both timers stay at or below the values they saturate at (R44). -/
structure TimersBounded (s : State) : Prop where
  tmr : s.tmr ≤ tmrLimit s.cfg
  elapsed : s.elapsed ≤ tRespMs

/-- The invariant of the block: it holds at reset and every step keeps it. -/
structure BlockInv (s : State) : Prop where
  flags : FlagsAgree s
  result : ResultAgrees s
  buffer : BufferInBounds s
  phase : PhaseAgrees s
  request : RequestHeld s
  timers : TimersBounded s

/-- The CRC computed over the received frame and the CRC it carried are those of the bytes in the buffer (R179). -/
structure CrcsRecorded (s : State) : Prop where
  computed : s.crcCalc = crc16 (rxBytes s.rx (s.total.toNat - 2))
  received : s.crcRecv = pair (Memory.read s.rx (s.total.toNat - 1)) (Memory.read s.rx (s.total.toNat - 2))

/-- A normal header was read, passed the size check and set TOTAL (R175, R176). -/
structure HeaderAccepted (s : State) : Prop where
  normal : isException (Memory.read s.rx 1) = false
  total : s.total.toNat = totalLength (Memory.read s.rx 2)
  fits : s.total.toNat ≤ s.cfg.rxCap

/-- What each outcome records beside ERR_KIND: the table of R221, and for a success R181. -/
def OutcomeRecorded (s : State) : Prop :=
  s.status.done = true →
    match s.result.errKind with
    | .none =>
      s.rxLen = s.total ∧ HeaderAccepted s ∧ CrcsRecorded s ∧ s.crcCalc = s.crcRecv ∧
        s.result.nRegs.toNat = min (carriedRegs (Memory.read s.rx 2)) s.latched.maxRegs.toNat
    | .headerTimeout => s.rxLen.toNat < hdrLen ∧ s.total = 0
    | .bodyTimeout => hdrLen ≤ s.rxLen.toNat ∧ s.rxLen.toNat < s.total.toNat ∧ HeaderAccepted s
    | .protocolException =>
      s.rxLen.toNat = hdrLen ∧ isException (Memory.read s.rx 1) = true ∧ s.result.excCode = Memory.read s.rx 2 ∧
        s.total = 0
    | .responseTooLarge =>
      s.rxLen.toNat = hdrLen ∧ s.total = 0 ∧ isException (Memory.read s.rx 1) = false ∧
        s.cfg.rxCap < totalLength (Memory.read s.rx 2)
    | .crcMismatch => s.rxLen = s.total ∧ HeaderAccepted s ∧ CrcsRecorded s ∧ s.crcCalc ≠ s.crcRecv

/-- Everything the host can read of the block: every access, at every offset, of every width. -/
def SameHostView (s t : State) : Prop :=
  ∀ (width : AccessWidth) (off : Offset), hostRead width off s = hostRead width off t

/-- Two states that differ at most in the receive buffer at or above RXLEN, which R43 leaves unspecified. -/
def SameBelowRxLen (s t : State) : Prop :=
  t = { s with rx := t.rx } ∧ ∀ j, j < s.rxLen.toNat → Memory.read t.rx j = Memory.read s.rx j

/-- `n` steps, stopping at the first fault or refusal: `Host.Core.run` of this machine, on its own state type. -/
def runSteps : Nat → State → Host.Outcome State Fault Refusal
  | 0, s => .next s
  | n + 1, s =>
    match step s with
    | .next t => runSteps n t
    | .fault r => .fault r
    | .refused r => .refused r

/-- The transaction is past its transmission: the deadline window of R168 is open. -/
def InWindow (s : State) : Prop := s.state = .postDelay ∨ s.state = .rxHeader ∨ s.state = .rxBody

/-- The Ticks that may still pass before a transaction in the window completes (R168, R170, R191). Outside it none is counted. -/
def ticksLeft (s : State) : Nat :=
  match s.state with
  | .idle | .preDelay | .tx => 0
  | .postDelay => max (s.cfg.tPostMs - s.tmr) (tRespMs - s.elapsed)
  | .rxHeader | .rxBody => tRespMs - s.elapsed

/-- The next step is a Tick that passes: none waits on an internal step (R45), and time is next or is left alone. -/
def takesTick (s : State) : Bool :=
  !internalEnabled s && (s.agenda.isEmpty || s.agenda.head? = some .tick)

/-- With T_POST_MS >= T_RESP_MS: the deadline passes within POST_DELAY, has passed in RX_HEADER, and RX_BODY is never entered
(R191, R272). -/
structure PostDelayOutlastsDeadline (s : State) : Prop where
  long : tRespMs ≤ s.cfg.tPostMs
  postDelay : s.state = .postDelay → min s.tmr tRespMs ≤ s.elapsed
  rxHeader : s.state = .rxHeader → tRespMs ≤ s.elapsed
  rxBody : s.state ≠ .rxBody

end Sys2Proof.Machine
end

