-- ==== Sys2Proof/Certificates/Slice0/Obligations.lean ====
section
/-! DEFINITION. The statements for the provers. Each docstring names the rules of spec/ it formalises. Where a statement
speaks of a label on the agenda, the agenda is the model's form of the step order of R13 (notes/assumptions/1.md). -/

open Sys2Proof Sys2Proof.Machine

/-! ### The CRC engine -/

/-- R141: one bit step, on numbers: halve, and XOR 0xA001 in when the number was odd; with the rule's corner cases. -/
def Obligations.CrcBitHalvesAndXorsWhenOdd : Prop :=
  (∀ c : Half, (crcBit c).toNat = if c.toNat % 2 = 1 then c.toNat / 2 ^^^ 0xA001 else c.toNat / 2) ∧
    crcBit 0x0000 = 0x0000 ∧ crcBit 0x0001 = 0xA001 ∧ crcBit 0xFFFF = 0xDFFE

/-- R142: the byte update is the XOR into bits 7:0 alone and then eight bit steps; with the rule's worked example. -/
def Obligations.CrcByteXorsLowByteThenEightBitSteps : Prop :=
  (∀ (c : Half) (b : Byte),
    hiByte (c ^^^ b.setWidth 16) = hiByte c ∧ loByte (c ^^^ b.setWidth 16) = loByte c ^^^ b ∧
      crcByte c b = crcBit^[8] (c ^^^ b.setWidth 16)) ∧
    crcByte 0xFFFF 0x01 = 0x807E ∧
    (List.range 8).map (fun n => (crcBit^[n] 0xFFFE).getLsbD 0) =
      [false, true, false, true, false, true, false, true] ∧
    (List.range 8).map (fun n => crcBit^[n + 1] 0xFFFE) =
      [0x7FFF, 0x9FFE, 0x4FFF, 0x87FE, 0x43FF, 0x81FE, 0x40FF, 0x807E]

/-- R144: crc16 folds the byte update from the seed, first byte first, and can process a frame as it streams; with the
rule's corner cases and the vector of the source. -/
def Obligations.CrcOfSequenceFoldsFromSeed : Prop :=
  crc16 [] = 0xFFFF ∧ (∀ (s : List Byte) (b : Byte), crc16 (s ++ [b]) = crcByte (crc16 s) b) ∧
    (∀ a b : List Byte, crc16 (a ++ b) = b.foldl crcByte (crc16 a)) ∧
    crc16 [0x00] = 0x40BF ∧ crc16 [0xFF] = 0x00FF ∧ crc16 [0x01, 0x03, 0x00, 0x48, 0x00, 0x09] = 0xDA05

/-- R146: the check compares the CRC of all bytes but the last two with those two, low byte first; and every appended message
passes. A frame that passes fails after a change to one byte, wherever it stands: that is wider than the sentence of R146 on a
change to one bit, whose argument R146 marks [from general knowledge, not in source]. -/
def Obligations.CrcCheckRejectsEveryOneByteChange : Prop :=
  (∀ (m : List Byte) (lo hi : Byte), crcOk (m ++ [lo, hi]) = true ↔ crc16 m = pair hi lo) ∧
    (∀ m : List Byte, crcOk (appendCrc m) = true) ∧
    (∀ (front back : List Byte) (b b' : Byte), b ≠ b' → crcOk (front ++ b :: back) = true →
      crcOk (front ++ b' :: back) = false) ∧
    crcOk (requestFrame 1 0x0048 9).toList = true

/-- R147: the residue of every appended message is 0, which the rule marks derived and not proved there; and on frames the
residue test agrees with the comparison of R146, an equivalence the rule marks [from general knowledge, not in source]. -/
def Obligations.CrcResidueIsZeroExactlyWhenCheckPasses : Prop :=
  (∀ m : List Byte, crc16 (appendCrc m) = 0) ∧
    ∀ f : List Byte, 2 ≤ f.length → (crcOk f = true ↔ crc16 f = 0)

/-! ### The host commands -/

/-- R149: CRC_INIT sets CRC_ACC to 0xFFFF and clears CMDERR, in every state, and changes nothing else; every command word
with OP = 0x01 is it, whatever its other bits; and the host then reads 0x0000FFFF in CRC. -/
def Obligations.CrcInitSetsSeed : Prop :=
  (∀ s : State, exec .crcInit s = .next { s with crcAcc := 0xFFFF, status := { s.status with cmdErr := false } }) ∧
    (∀ w : Word, w.extractLsb' 0 8 = (0x01 : Byte) → decode (.cmd w) = .ok .crcInit) ∧
    ∀ (s : State) (rest : List Label),
      s.agenda = .hostWrite .word 0x000 0x00000001 :: .hostRead .word 0x01C :: rest →
        runSteps 2 s = .next { s with
          agenda := rest, crcAcc := 0xFFFF, status := { s.status with cmdErr := false }, readData := 0x0000FFFF }

/-- R150: CRC_BYTE folds its byte into CRC_ACC and clears CMDERR, in every state, and changes nothing else; every command word
with OP = 0x02 is it, its byte bits 15:8; the rule's corner case and example; and the host computes crc16(m) as CRC_INIT
followed by one CRC_BYTE per byte of m, in order, whatever the state. -/
def Obligations.CrcByteFoldsIntoAccumulator : Prop :=
  (∀ (s : State) (b : Byte), exec (.crcByte b) s =
    .next { s with crcAcc := crcByte s.crcAcc b, status := { s.status with cmdErr := false } }) ∧
    (∀ w : Word, w.extractLsb' 0 8 = (0x02 : Byte) → decode (.cmd w) = .ok (.crcByte (w.extractLsb' 8 8))) ∧
    crcByte 0x0000 0x00 = 0x0000 ∧ crcByte 0xFFFF 0x01 = 0x807E ∧
    ∀ (s : State) (m : List Byte) (rest : List Label),
      s.agenda = .hostWrite .word 0x000 0x00000001 ::
          (m.map (fun b => Label.hostWrite .word 0x000 (cmdWord b 0x02)) ++ rest) →
        runSteps (m.length + 1) s =
          .next { s with agenda := rest, crcAcc := crc16 m, status := { s.status with cmdErr := false } }

/-- R104 (a): a command whose OP is none of the three is rejected: CMDERR is set and nothing else changes. Completion of the
illegal command. -/
def Obligations.IllegalCommandOnlySetsCmdErr : Prop :=
  ∀ (s : State) (op : Byte), (Instr.illegalCmd op).wf = true →
    exec (.illegalCmd op) s = .next { s with status := { s.status with cmdErr := true } }

/-- R104: a host write to CMD is rejected exactly when its OP is illegal, one of 253 values, or it is READ_HOLDING while BUSY;
the rejection sets CMDERR and changes nothing else; an accepted write performs its command and leaves CMDERR 0. CRC_INIT and
CRC_BYTE are never rejected for BUSY. -/
def Obligations.CommandWriteRejectedOrAccepted : Prop :=
  ((List.range 256).filter fun n => (Instr.illegalCmd (BitVec.ofNat 8 n)).wf).length = 253 ∧
  ∀ (s : State) (w : Word) (rest : List Label), s.agenda = .hostWrite .word 0x000 w :: rest →
    (opField w ≠ 0x01 ∧ opField w ≠ 0x02 ∧ (opField w = 0x03 → s.status.busy = true) →
        step s = .next { s with agenda := rest, status := { s.status with cmdErr := true } }) ∧
      ∀ i : Instr, (opField w = 0x01 ∧ i = .crcInit) ∨ (opField w = 0x02 ∧ i = .crcByte (dataField w)) ∨
          (opField w = 0x03 ∧ s.status.busy = false ∧ i = .readHolding) →
        ∃ t, step s = .next t ∧ exec i { s with agenda := rest } = .next t ∧ t.status.cmdErr = false

/-- R103: bits 31:16 of a command word, and bits 15:8 for every opcode but CRC_BYTE, are ignored: two words that agree
elsewhere act alike. -/
def Obligations.ReservedCommandBitsIgnored : Prop :=
  ∀ (s : State) (v w : Word) (rest : List Label), v.extractLsb' 0 8 = w.extractLsb' 0 8 →
    (v.extractLsb' 0 8 = (0x02 : Byte) → v.extractLsb' 8 8 = w.extractLsb' 8 8) →
      step { s with agenda := .hostWrite .word 0x000 v :: rest } =
        step { s with agenda := .hostWrite .word 0x000 w :: rest }

/-! ### Encodings -/

/-- R101, R105, R107, R108 on words written out from their tables. -/
def Obligations.SampleWordsDecode : Prop :=
  decode (.cmd 0x00000001) = .ok .crcInit ∧ decode (.cmd 0xFFFF4802) = .ok (.crcByte 0x48) ∧
    decode (.cmd 0x0000AB03) = .ok .readHolding ∧ decode (.cmd 0x00000007) = .ok (.illegalCmd 0x07) ∧
    decode (.sent [0x01, 0x03, 0x00, 0x48, 0x00, 0x09, 0x05, 0xDA]) = .ok (.req8 0x01 0x0048 0x0009) ∧
    decode (.received [0x02, 0x04, 0x02]) = .ok (.rspn 0x02 0x04 0x02) ∧
    decode (.received [0x01, 0x83, 0x0B]) = .ok (.rspx 0x01 0x03 0x0B)

/-- Decoding the encoding of a well-formed instruction gives it back, every operand at every value (R100-R110). -/
def Obligations.DecodeOfEncodeIsIdentity : Prop :=
  ∀ i : Instr, i.wf = true → decode (encode i) = .ok i

/-- A whole response frame is read back from its bytes, and bytes that are read as a frame are that frame's own bytes: no bit
is dropped in either direction (R107, R108, R110). -/
def Obligations.ResponseFramesRoundTrip : Prop :=
  (∀ f : ResponseFrame, f.wf = true → decodeFrame (encodeFrame f) = .ok f) ∧
    ∀ (bytes : List Byte) (f : ResponseFrame), decodeFrame bytes = .ok f → encodeFrame f = bytes ∧ f.wf = true

/-! ### The host register space -/

/-- The register map of R25: an offset names a register exactly when it is that register's offset. -/
def Obligations.RegisterMapIsExact : Prop :=
  ∀ (off : Offset) (r : HostReg), regAt off = some r ↔ off.toNat = regOffset r

/-- R76: the host primitives. A read returns the word of the register at its offset and changes nothing of the block; a write
at 0x000 runs the command of its word; at an RW register it stores that register's field bits; otherwise it has no effect. -/
def Obligations.HostAccessPrimitives : Prop :=
  ∀ (s : State) (off : Offset) (v : Word) (rest : List Label),
    (s.agenda = .hostRead .word off :: rest →
      step s = .next { s with agenda := rest, readData := match regAt off with | some r => readReg s r | none => 0 }) ∧
    (s.agenda = .hostWrite .word off v :: rest →
      (off = 0x000 → step s = exec (decodeCmd v) { s with agenda := rest }) ∧
      (off = 0x008 → step s =
        .next { s with agenda := rest, operands := { s.operands with slaveId := v.extractLsb' 0 8 } }) ∧
      (off = 0x00C → step s =
        .next { s with agenda := rest, operands := { s.operands with startAddr := v.extractLsb' 0 16 } }) ∧
      (off = 0x010 → step s =
        .next { s with agenda := rest, operands := { s.operands with regCount := v.extractLsb' 0 16 } }) ∧
      (off = 0x014 → step s =
        .next { s with agenda := rest, operands := { s.operands with maxRegs := v.extractLsb' 0 8 } }) ∧
      (off ∉ ([0x000, 0x008, 0x00C, 0x010, 0x014] : List Offset) → step s = .next { s with agenda := rest }))

/-- R39 and R75: an access narrower than a word, at an offset that is no multiple of 4, or at one that names no register,
reads 0 and writes nothing, CMDERR included; so does a write to a read-only register. -/
def Obligations.UnmappedAccessHasNoEffect : Prop :=
  ∀ (s : State) (width : AccessWidth) (off : Offset) (v : Word) (rest : List Label),
    (width ≠ .word ∨ off.toNat % 4 ≠ 0 ∨ (∀ r, off.toNat ≠ regOffset r) →
      hostRead width off s = 0 ∧
        (s.agenda = .hostRead width off :: rest → step s = .next { s with agenda := rest, readData := 0 })) ∧
    (width ≠ .word ∨ off.toNat % 4 ≠ 0 ∨ (∀ r, off.toNat ≠ regOffset r) ∨
        (∃ r ∉ ([.cmd, .slave, .addr, .count, .maxregs] : List HostReg), off.toNat = regOffset r) →
      s.agenda = .hostWrite width off v :: rest → step s = .next { s with agenda := rest })

/-- R28-R31: the word an operand register reads as is its field zero-extended, and after a write the bits the write stored. -/
def Obligations.OperandRegistersReadBack : Prop :=
  (∀ s : State, hostRead .word 0x008 s = s.operands.slaveId.setWidth 32 ∧
      hostRead .word 0x00C s = s.operands.startAddr.setWidth 32 ∧
      hostRead .word 0x010 s = s.operands.regCount.setWidth 32 ∧
      hostRead .word 0x014 s = s.operands.maxRegs.setWidth 32) ∧
    ∀ (s : State) (v : Word) (rest : List Label) (off : Offset) (mask : Word),
      (off, mask) ∈ ([(0x008, 0xFF), (0x00C, 0xFFFF), (0x010, 0xFFFF), (0x014, 0xFF)] : List (Offset × Word)) →
        s.agenda = .hostWrite .word off v :: rest →
          ∃ t, step s = .next t ∧ hostRead .word off t = v &&& mask

/-- R27, R32, R34, R35: every field of STATUS, RESULT, RXINFO and RXCRC stands at its bits and every reserved bit reads 0. The
numbers of STATE are those of R40, and those of ERR_KIND are those of R32 and R221. -/
def Obligations.StatusAndResultWordsCarryTheirFields : Prop :=
  (stateCode .idle = 0 ∧ stateCode .preDelay = 1 ∧ stateCode .tx = 2 ∧ stateCode .postDelay = 3 ∧
    stateCode .rxHeader = 4 ∧ stateCode .rxBody = 5) ∧
  (kindCode .none = 0 ∧ kindCode .headerTimeout = 1 ∧ kindCode .bodyTimeout = 2 ∧ kindCode .protocolException = 3 ∧
    kindCode .responseTooLarge = 4 ∧ kindCode .crcMismatch = 5) ∧
  ∀ s : State,
    (let w := hostRead .word 0x004 s;
      w.getLsbD 0 = s.status.busy ∧ w.getLsbD 1 = s.status.done ∧ w.getLsbD 2 = s.status.ok ∧
        w.getLsbD 3 = s.status.cmdErr ∧ w.extractLsb' 4 4 = 0#4 ∧ w.extractLsb' 8 3 = stateCode s.state ∧
        w.extractLsb' 11 21 = 0#21) ∧
    (let w := hostRead .word 0x018 s;
      w.extractLsb' 0 3 = kindCode s.result.errKind ∧ w.extractLsb' 3 5 = 0#5 ∧ w.extractLsb' 8 8 = s.result.excCode ∧
        w.extractLsb' 16 8 = s.result.nRegs ∧ w.extractLsb' 24 8 = 0#8) ∧
    (let w := hostRead .word 0x020 s;
      w.extractLsb' 0 9 = s.rxLen ∧ w.extractLsb' 9 7 = 0#7 ∧ w.extractLsb' 16 9 = s.total ∧
        w.extractLsb' 25 7 = 0#7) ∧
    (let w := hostRead .word 0x024 s;
      w.extractLsb' 0 16 = s.crcCalc ∧ w.extractLsb' 16 16 = s.crcRecv) ∧
    hostRead .word 0x000 s = 0 ∧ hostRead .word 0x028 s = s.txCrc.setWidth 32

/-- R37: REG[i] is register i of the receive buffer, high byte first, below NREGS and 0 from there on; so it reads 0 in every
slot while a transaction runs and after a failed one. -/
def Obligations.RegWindowIsAViewOfTheBuffer : Prop :=
  (∀ (s : State) (i : Fin 128), hostRead .word (BitVec.ofNat 12 (0x100 + 4 * i.val)) s =
    if i.val < s.result.nRegs.toNat then
      (pair (Memory.read s.rx (3 + 2 * i.val)) (Memory.read s.rx (4 + 2 * i.val))).setWidth 32
    else 0) ∧
    ∀ (s : State) (i : Fin 128), BlockInv s → (s.status.busy = true ∨ s.result.errKind ≠ .none) →
      hostRead .word (BitVec.ofNat 12 (0x100 + 4 * i.val)) s = 0

/-- R38: RXBYTE[j] is stored byte j below RXLEN and 0 from there on; so it reads 0 for every j >= RX_CAP. -/
def Obligations.RxByteWindowIsAViewOfTheBuffer : Prop :=
  (∀ (s : State) (j : Fin 260), hostRead .word (BitVec.ofNat 12 (0x400 + 4 * j.val)) s =
    if j.val < s.rxLen.toNat then (Memory.read s.rx j.val).setWidth 32 else 0) ∧
    ∀ (s : State) (j : Fin 260), BlockInv s → s.cfg.rxCap ≤ j.val →
      hostRead .word (BitVec.ofNat 12 (0x400 + 4 * j.val)) s = 0

/-- R33: CRC reads CRC_ACC zero-extended, CRC_ACC is 0xFFFF at reset, and no step but a CRC_INIT, a CRC_BYTE or a reset
changes it: a transaction never does. -/
def Obligations.OnlyCrcCommandsWriteTheAccumulator : Prop :=
  (∀ s : State, hostRead .word 0x01C s = s.crcAcc.setWidth 32) ∧ State.reset.crcAcc = 0xFFFF ∧
    ∀ s t : State, step s = .next t →
      t.crcAcc = s.crcAcc ∨ (∃ rest, s.agenda = .reset :: rest) ∨
        ∃ w rest, s.agenda = .hostWrite .word 0x000 w :: rest ∧
          ((opField w = 0x01 ∧ t.crcAcc = 0xFFFF) ∨
            (opField w = 0x02 ∧ t.crcAcc = crcByte s.crcAcc (dataField w)))

/-! ### Acceptance and the request frame -/

/-- R161: an accepted READ_HOLDING latches the operands, sets and clears the flags, clears the results, builds the request,
flushes the inbound queue, starts the timers and enters PRE_DELAY, all in one step, and changes nothing else. In that state, and in
every state that meets the invariant while BUSY, RESULT and every REG slot read 0. -/
def Obligations.ReadHoldingAcceptedWhenNotBusy : Prop :=
  (∀ s : State, s.status.busy = false → ∃ t, exec .readHolding s = .next t ∧
    t = { s with
      latched := s.operands
      status := ⟨true, false, false, false⟩
      result := ⟨.none, 0, 0⟩
      rxLen := 0, total := 0, crcCalc := 0, crcRecv := 0
      req := requestFrame s.operands.slaveId s.operands.startAddr s.operands.regCount
      txCrc := requestCrc s.operands.slaveId s.operands.startAddr s.operands.regCount
      inq := []
      tmr := 0, elapsed := 0, txIdx := 0
      state := .preDelay } ∧
    hostRead .word 0x018 t = 0 ∧ ∀ i : Fin 128, hostRead .word (BitVec.ofNat 12 (0x100 + 4 * i.val)) t = 0) ∧
  ∀ s : State, BlockInv s → s.status.busy = true →
    hostRead .word 0x018 s = 0 ∧ ∀ i : Fin 128, hostRead .word (BitVec.ofNat 12 (0x100 + 4 * i.val)) s = 0

/-- R104 (b) and R232: a READ_HOLDING while BUSY sets CMDERR and leaves the transaction in flight untouched. -/
def Obligations.ReadHoldingWhileBusyLeavesTransaction : Prop :=
  ∀ s : State, s.status.busy = true →
    exec .readHolding s = .next { s with status := { s.status with cmdErr := true } }

/-- Right after an acceptance the results of the previous transaction are gone (R161, R267): in the state it answers RESULT,
RXINFO, RXCRC, every REG slot and every RXBYTE slot read 0. RXINFO and RXBYTE are live (R82), and read otherwise from the first
pop on. -/
def Obligations.AcceptanceHidesPreviousResults : Prop :=
  ∀ s : State, s.status.busy = false → ∃ t, exec .readHolding s = .next t ∧
    hostRead .word 0x018 t = 0 ∧ hostRead .word 0x020 t = 0 ∧ hostRead .word 0x024 t = 0 ∧
    (∀ i : Fin 128, hostRead .word (BitVec.ofNat 12 (0x100 + 4 * i.val)) t = 0) ∧
    ∀ j : Fin 260, hostRead .word (BitVec.ofNat 12 (0x400 + 4 * j.val)) t = 0

/-- R162: the framer writes the eight bytes slave id, 0x03, address and count high byte first, and the CRC of the first six
low byte first, with TXCRC that CRC; it changes nothing else; the rule's example; and an acceptance frames the operands it
latched, so that framing those again changes nothing. Completion of REQ8. -/
def Obligations.FramerBuildsRequest : Prop :=
  (∀ (s : State) (slaveId : Byte) (startAddr regCount : Half),
    let c := crc16 [slaveId, 0x03, startAddr.extractLsb' 8 8, startAddr.extractLsb' 0 8, regCount.extractLsb' 8 8,
      regCount.extractLsb' 0 8]
    exec (.req8 slaveId startAddr regCount) s = .next { s with
      req := #v[slaveId, 0x03, startAddr.extractLsb' 8 8, startAddr.extractLsb' 0 8, regCount.extractLsb' 8 8,
        regCount.extractLsb' 0 8, c.extractLsb' 0 8, c.extractLsb' 8 8]
      txCrc := c }) ∧
    (∀ s : State, exec (.req8 0x01 0x0048 0x0009) s = .next { s with
      req := #v[0x01, 0x03, 0x00, 0x48, 0x00, 0x09, 0x05, 0xDA], txCrc := 0xDA05 }) ∧
    ∀ s : State, s.status.busy = false → ∃ t, exec .readHolding s = .next t ∧
      exec (.req8 t.latched.slaveId t.latched.startAddr t.latched.regCount) t = .next t

/-- Acceptance runs the framer on the operand registers (R161, R162): it leaves REQ and TXCRC as REQ8 with those operands does,
and REQ is that instruction's encoding, a frame that passes its own CRC check. -/
def Obligations.AcceptanceRunsTheFramer : Prop :=
  ∀ s : State, s.status.busy = false →
    ∃ t u, exec .readHolding s = .next t ∧
      exec (.req8 s.operands.slaveId s.operands.startAddr s.operands.regCount) s = .next u ∧
      t.req = u.req ∧ t.txCrc = u.txCrc ∧ t.txCrc = pair t.req[7] t.req[6] ∧
      decode (.sent t.req.toList) = .ok (.req8 s.operands.slaveId s.operands.startAddr s.operands.regCount) ∧
      crcOk t.req.toList = true

/-! ### Transmission -/

/-- R165, R166, R170: the end of PRE_DELAY, the push of a request byte and the end of POST_DELAY, each where it is enabled. Where
it is not enabled (a delay not over, a transport not ready, TXIDX at 8) the internal label passes without effect: that is the
model's choice (notes/assumptions/2.md). -/
def Obligations.DelayEndsAndPushes : Prop :=
  ∀ (s : State) (rest : List Label), s.agenda = .internal :: rest →
    (s.state = .preDelay → step s =
      if s.cfg.tPreMs ≤ s.tmr then .next { s with agenda := rest, state := .tx, de := true }
      else .next { s with agenda := rest }) ∧
    (s.state = .tx → ∀ h : s.txIdx.toNat < 8, step s =
      if s.txReady then .next { s with
        agenda := rest, sent := s.sent ++ [s.req[s.txIdx.toNat]], txIdx := s.txIdx + 1 }
      else .next { s with agenda := rest }) ∧
    (s.state = .tx → 8 ≤ s.txIdx.toNat → step s = .next { s with agenda := rest }) ∧
    (s.state = .postDelay → step s =
      if s.cfg.tPostMs ≤ s.tmr then .next { s with agenda := rest, state := .rxHeader }
      else .next { s with agenda := rest })

/-- R165, R166: with T_PRE_MS = 0 and a ready transport, acceptance is followed by the end of PRE_DELAY and the eight pushes with
no Tick between; a transport that is not ready lets Ticks pass in TX, which change nothing. -/
def Obligations.ZeroPreDelaySendsBeforeAnyTick : Prop :=
  (∀ (s : State) (rest : List Label), s.status.busy = false → s.cfg.tPreMs = 0 → s.txReady = true →
    s.agenda = .hostWrite .word 0x000 0x00000003 :: .tick :: rest →
      ∃ t, runSteps 10 s = .next t ∧ t.state = .tx ∧ t.txIdx = 8 ∧ t.sent = s.sent ++ t.req.toList ∧ t.tmr = 0 ∧
        t.agenda = .tick :: rest) ∧
    ∀ (s : State) (n : Nat) (rest : List Label), s.state = .tx → s.txReady = false →
      s.agenda = List.replicate n .tick ++ rest → runSteps n s = .next { s with agenda := rest }

/-- The request leaves in wire order, exactly eight bytes (R166, R78): from the start of TX, eight internal steps with a ready
transport push REQ[0] to REQ[7] and change nothing else but TXIDX. -/
def Obligations.RequestBytesLeaveInOrder : Prop :=
  ∀ (s : State) (rest : List Label), s.state = .tx → s.txIdx = 0 → s.txReady = true →
    s.agenda = List.replicate 8 .internal ++ rest →
      runSteps 8 s = .next { s with agenda := rest, sent := s.sent ++ s.req.toList, txIdx := 8 }

/-- The block hands bytes to the transport only in TX, with DE = 1, each the request's next byte, never more than one a step
(R78, R166, R270). -/
def Obligations.BytesArePushedOnlyWhileDriving : Prop :=
  ∀ s t : State, BlockInv s → step s = .next t →
    t.sent = s.sent ∨
      (s.state = .tx ∧ s.de = true ∧ t.de = true ∧ ∃ h : s.txIdx.toNat < 8,
        t.sent = s.sent ++ [s.req[s.txIdx.toNat]] ∧ t.txIdx = s.txIdx + 1)

/-- R167: TxComplete, enabled in TX after the eighth push, enters POST_DELAY, drops DE and opens the deadline window. -/
def Obligations.TxCompleteOpensTheDeadlineWindow : Prop :=
  ∀ (s : State) (rest : List Label), s.agenda = .txComplete :: rest → s.state = .tx → s.txIdx = 8 →
    step s = .next { s with agenda := rest, state := .postDelay, de := false, tmr := 0, elapsed := 0 }

/-- The model's choice (notes/assumptions/2.md): a TxComplete or an internal step that is not enabled is no step of the system of
R13, and passes without effect. -/
def Obligations.LabelsNotEnabledPassWithoutEffect : Prop :=
  ∀ (s : State) (rest : List Label),
    (s.agenda = .txComplete :: rest → s.state ≠ .tx ∨ s.txIdx ≠ 8 → step s = .next { s with agenda := rest }) ∧
    (s.agenda = .internal :: rest → internalEnabled s = false → step s = .next { s with agenda := rest })

/-- R189: without a TxComplete (and without Reset) the transaction stays in TX forever: BUSY stays 1 and no completion is
reported, whatever the host does and whatever bytes arrive, after any number of steps. -/
def Obligations.WithoutTxCompleteTheTransactionIsStuck : Prop :=
  ∀ (n : Nat) (s : State), s.state = .tx → s.status.busy = true → s.status.done = false →
    (∀ l ∈ s.agenda, l ≠ .txComplete ∧ l ≠ .reset) →
      ∃ t, runSteps n s = .next t ∧ t.state = .tx ∧ t.status.busy = true ∧ t.status.done = false

/-! ### Time -/

/-- R164, R168, R169, R171: what a Tick does in each STATE, where it is enabled. -/
def Obligations.TickAdvancesTheTimersOfItsState : Prop :=
  ∀ (s : State) (rest : List Label), s.agenda = .tick :: rest → internalEnabled s = false →
    (s.state = .idle ∨ s.state = .tx → step s = .next { s with agenda := rest }) ∧
    (s.state = .preDelay → step s =
      .next { s with agenda := rest, tmr := min (s.tmr + 1) (max s.cfg.tPreMs s.cfg.tPostMs) }) ∧
    (s.state = .postDelay → step s =
      .next { s with
        agenda := rest, tmr := min (s.tmr + 1) (max s.cfg.tPreMs s.cfg.tPostMs),
        elapsed := min (s.elapsed + 1) 1000 }) ∧
    (s.state = .rxHeader ∨ s.state = .rxBody → step s =
      .next { s with agenda := rest, elapsed := min (s.elapsed + 1) 1000 })

/-- R45: a Tick is enabled only when no internal step is; so a byte in the inbound queue before the deadline is consumed before
the next Tick. That the internal step is taken while the Tick stays at the head of the agenda is the model's reading of it
(notes/assumptions/4.md). -/
def Obligations.InternalStepsAreUrgent : Prop :=
  (∀ s : State, internalEnabled s = true ↔
    (s.state = .preDelay ∧ s.cfg.tPreMs ≤ s.tmr) ∨ (s.state = .tx ∧ s.txIdx.toNat < 8 ∧ s.txReady = true) ∨
      (s.state = .postDelay ∧ s.cfg.tPostMs ≤ s.tmr) ∨
      ((s.state = .rxHeader ∨ s.state = .rxBody) ∧ (1000 ≤ s.elapsed ∨ s.inq ≠ []))) ∧
    (∀ (s : State) (rest : List Label), s.agenda = .tick :: rest → internalEnabled s = true →
      step s = step { s with agenda := .internal :: s.agenda }) ∧
    ∀ (s : State) (rest : List Label) (b : Byte) (q : List Byte), BlockInv s → s.agenda = .tick :: rest →
      s.state = .rxHeader ∨ s.state = .rxBody → s.elapsed < 1000 → s.inq = b :: q →
        ∃ t, step s = .next t ∧ t.inq = q ∧ t.elapsed = s.elapsed ∧ t.agenda = s.agenda

/-! ### Reception -/

/-- R172 and R177: at the deadline the transaction ends with HeaderTimeout or BodyTimeout, and no byte is popped, not even one
that waits; nothing but RESULT, the flags and STATE changes. -/
def Obligations.DeadlineEndsTheReadWithoutPopping : Prop :=
  ∀ (s : State) (rest : List Label), s.agenda = .internal :: rest → 1000 ≤ s.elapsed →
    (s.state = .rxHeader → step s = .next { s with
      agenda := rest, result := ⟨.headerTimeout, 0, 0⟩, status := ⟨false, true, false, s.status.cmdErr⟩,
      state := .idle }) ∧
    (s.state = .rxBody → step s = .next { s with
      agenda := rest, result := ⟨.bodyTimeout, 0, 0⟩, status := ⟨false, true, false, s.status.cmdErr⟩,
      state := .idle })

/-- R173: before the deadline RX_HEADER stores the queue's oldest byte at RXLEN; the third byte is examined in the same step,
and that step is the step of the instruction the three bytes decode to. A step runs the decoded response. -/
def Obligations.ThirdHeaderByteRunsTheDecodedResponse : Prop :=
  ∀ (s : State) (rest : List Label) (b : Byte) (q : List Byte), s.agenda = .internal :: rest → s.state = .rxHeader →
    s.elapsed < 1000 → s.inq = b :: q → s.rxLen.toNat < 3 →
      let stored := { s with
        agenda := rest, inq := q, rx := Memory.write s.rx s.rxLen.toNat b, rxLen := s.rxLen + 1 }
      (s.rxLen.toNat < 2 → step s = .next stored) ∧
      (s.rxLen.toNat = 2 → ∀ i : Instr,
        decode (.received [Memory.read stored.rx 0, Memory.read stored.rx 1, Memory.read stored.rx 2]) = .ok i →
          step s = exec i stored)

/-- R174: an exception response, any header whose second byte has bit 7 set, ends the transaction with ProtocolException and its
third byte as the code, whatever its other bits; its CRC bytes are not popped. Completion of RSPX. -/
def Obligations.ExceptionResponseFailsFast : Prop :=
  (∀ b0 b1 b2 : Byte, b1.getLsbD 7 = true → decode (.received [b0, b1, b2]) = .ok (.rspx b0 (b1.extractLsb' 0 7) b2)) ∧
    ∀ (s : State) (slaveId : Byte) (fc : BitVec 7) (code : Byte),
      exec (.rspx slaveId fc code) s = .next { s with
        result := ⟨.protocolException, code, 0⟩, status := ⟨false, true, false, s.status.cmdErr⟩, state := .idle }

/-- R175, R176, R183: a normal response, any header whose second byte has bit 7 clear, is too large when 5 + byteCount exceeds
RX_CAP, and otherwise sets TOTAL and enters RX_BODY; the slave id and the low seven bits of the function code play no part.
Completion of RSPN. -/
def Obligations.NormalResponseIsSizedByItsByteCount : Prop :=
  (∀ b0 b1 b2 : Byte, b1.getLsbD 7 = false → decode (.received [b0, b1, b2]) = .ok (.rspn b0 (b1.extractLsb' 0 7) b2)) ∧
    ∀ (s : State) (slaveId : Byte) (fc : BitVec 7) (byteCount : Byte),
      (s.cfg.rxCap < 5 + byteCount.toNat → exec (.rspn slaveId fc byteCount) s = .next { s with
        result := ⟨.responseTooLarge, 0, 0⟩, status := ⟨false, true, false, s.status.cmdErr⟩, state := .idle }) ∧
      (5 + byteCount.toNat ≤ s.cfg.rxCap → ∃ t, exec (.rspn slaveId fc byteCount) s = .next t ∧
        t = { s with total := t.total, state := .rxBody } ∧ t.total.toNat = 5 + byteCount.toNat)

/-- R178-R181: before the deadline RX_BODY stores the queue's oldest byte; when that completes the frame, the CRC over all bytes
but the last two is compared with those two, low byte first, in the same step: a difference is CrcMismatch, agreement success
with min(floor(byteCount / 2), L_MAX) registers. -/
def Obligations.LastBodyByteChecksTheFrame : Prop :=
  ∀ (s : State) (rest : List Label) (b : Byte) (q : List Byte), s.agenda = .internal :: rest → s.state = .rxBody →
    s.elapsed < 1000 → s.inq = b :: q → s.rxLen.toNat < s.total.toNat → s.total.toNat ≤ s.cfg.rxCap →
      let m := Memory.write s.rx s.rxLen.toNat b
      let stored := { s with agenda := rest, inq := q, rx := m, rxLen := s.rxLen + 1 }
      let c := crc16 (rxBytes m (s.total.toNat - 2))
      let r := pair (Memory.read m (s.total.toNat - 1)) (Memory.read m (s.total.toNat - 2))
      (s.rxLen.toNat + 1 < s.total.toNat → step s = .next stored) ∧
      (s.rxLen.toNat + 1 = s.total.toNat → c ≠ r → step s = .next { stored with
        crcCalc := c, crcRecv := r, result := ⟨.crcMismatch, 0, 0⟩,
        status := ⟨false, true, false, s.status.cmdErr⟩, state := .idle }) ∧
      (s.rxLen.toNat + 1 = s.total.toNat → c = r → step s = .next { stored with
        crcCalc := c, crcRecv := r,
        result := ⟨.none, 0, BitVec.ofNat 8 (min ((Memory.read m 2).toNat / 2) s.latched.maxRegs.toNat)⟩,
        status := ⟨false, true, true, s.status.cmdErr⟩, state := .idle })

/-! ### Whole responses -/

/-- R174, R175, R186 and R228 over three steps: the header alone decides an exception or an oversized response, the exception
test first; exactly three bytes are popped, and every later byte stays in the queue. -/
def Obligations.HeaderAloneDecidesEarlyFailures : Prop :=
  ∀ (s : State) (b0 b1 b2 : Byte) (more : List Byte), s.agenda = [] → s.state = .rxHeader → s.rxLen = 0 →
    s.elapsed < 1000 → Memory.wf s.rx = true → s.inq = b0 :: b1 :: b2 :: more →
      (isException b1 = true → ∃ t, runSteps 3 s = .next t ∧ readResult t = .err .protocolException b2 ∧
        t.inq = more ∧ t.rxLen = 3 ∧ t.total = s.total ∧ t.state = .idle ∧ rxBytes t.rx 3 = [b0, b1, b2]) ∧
      (isException b1 = false → s.cfg.rxCap < 5 + b2.toNat → ∃ t, runSteps 3 s = .next t ∧
        readResult t = .err .responseTooLarge 0 ∧ t.inq = more ∧ t.rxLen = 3 ∧ t.total = s.total ∧ t.state = .idle)

/-- A whole normal response that fits, whatever its slave id, function code, data and CRC, waiting in the queue before the
deadline (R173-R186): after exactly its length in steps the transaction has completed, with exactly its bytes popped and stored;
it succeeds if and only if the frame passes the check of R146, and then returns the first min(floor(n / 2), L_MAX) registers of
its data region, high byte first; otherwise it fails with CrcMismatch and returns none. -/
def Obligations.WholeResponseSucceedsExactlyWhenItsCrcPasses : Prop :=
  ∀ (s : State) (b0 b1 b2 : Byte) (tail more : List Byte), s.agenda = [] → s.state = .rxHeader → s.rxLen = 0 →
    s.elapsed < 1000 → Memory.wf s.rx = true → isException b1 = false → tail.length = b2.toNat + 2 →
    5 + b2.toNat ≤ s.cfg.rxCap → s.inq = b0 :: b1 :: b2 :: (tail ++ more) →
      let f := b0 :: b1 :: b2 :: tail
      let n := min (b2.toNat / 2) s.latched.maxRegs.toNat
      ∃ t, runSteps f.length s = .next t ∧ t.state = .idle ∧ t.status.busy = false ∧ t.inq = more ∧
        rxBytes t.rx f.length = f ∧ t.rxLen.toNat = f.length ∧ t.total.toNat = f.length ∧
        t.result.nRegs.toNat = (if crcOk f then n else 0) ∧
        readResult t =
          if crcOk f then .ok ((List.range n).map fun k => pair (f.getD (3 + 2 * k) 0) (f.getD (4 + 2 * k) 0))
          else .err .crcMismatch 0

/-! ### Timeouts -/

/-- R191: from the opening of the deadline window at most max(T_POST_MS, T_RESP_MS) Ticks pass before the transaction completes,
here with a host and a transport that are silent until then. One Tick more than that stands on the agenda, before any other label:
the transaction completes within a bounded number of steps while at least one of these Ticks still waits, so that every Tick that
passed was one of the others. For every host and transport: `Obligations.WindowTicksAreBounded`. -/
def Obligations.WindowCompletesWithinItsTicks : Prop :=
  ∀ (s : State) (rest : List Label), BlockInv s → InWindow s →
    s.agenda = List.replicate (max s.cfg.tPostMs 1000 + 1) .tick ++ rest →
      ∃ k m t, k ≤ max s.cfg.tPostMs 1000 + s.inq.length + 2 ∧ runSteps k s = .next t ∧
        t.agenda = List.replicate (m + 1) .tick ++ rest ∧ t.state = .idle ∧ t.status.done = true ∧ t.status.busy = false

/-- R191, R272: with T_POST_MS >= T_RESP_MS and a silent host and transport, a transaction that enters POST_DELAY ends in
HeaderTimeout after a known number of steps, even with a whole response waiting in the queue; no byte is popped. For every host
and transport: `Obligations.LongPostDelayLeavesOnlyHeaderTimeout`. -/
def Obligations.LongPostDelayAlwaysTimesOut : Prop :=
  ∀ s : State, BlockInv s → s.state = .postDelay → s.tmr = 0 → s.elapsed = 0 → 1000 ≤ s.cfg.tPostMs → s.agenda = [] →
    ∃ t, runSteps (s.cfg.tPostMs + 2) s = .next t ∧ readResult t = .err .headerTimeout 0 ∧ t.inq = s.inq ∧
      t.rxLen = 0 ∧ t.state = .idle

/-- R229: a transaction whose last byte and deadline coincide ends either way: by the check of the frame when the byte arrives
before the Tick, by BodyTimeout with the byte left in the queue when the Tick comes first. -/
def Obligations.LastByteAndDeadlineInEitherOrder : Prop :=
  ∀ (s : State) (b : Byte), BlockInv s → s.state = .rxBody → s.elapsed = 999 → s.inq = [] →
    s.rxLen.toNat + 1 = s.total.toNat →
      (∃ t, runSteps 2 { s with agenda := [.rxArrive b, .tick] } = .next t ∧ t.state = .idle ∧ t.status.done = true ∧
        t.inq = [] ∧ t.elapsed = 999 ∧ (t.result.errKind = .none ∨ t.result.errKind = .crcMismatch)) ∧
      ∃ t, runSteps 3 { s with agenda := [.tick, .rxArrive b] } = .next t ∧ t.state = .idle ∧ t.status.done = true ∧
        t.inq = [b] ∧ t.result.errKind = .bodyTimeout

/-! ### The whole machine -/

/-- When a host write to CMD is next, the step is the step of the instruction its word decodes to (R76, R101). -/
def Obligations.StepRunsTheDecodedCommand : Prop :=
  ∀ (s : State) (w : Word) (rest : List Label) (i : Instr), s.agenda = .hostWrite .word 0x000 w :: rest →
    decode (.cmd w) = .ok i → step s = exec i { s with agenda := rest }

/-- R260: Reset sets every piece of block state to its reset value, RX excepted, which is unspecified; it neither flushes nor
resets the transport. -/
def Obligations.ResetStepSetsEveryRegister : Prop :=
  ∀ (s : State) (rest : List Label), s.agenda = .reset :: rest → ∃ t, step s = .next t ∧
    t.state = .idle ∧ t.status = ⟨false, false, false, false⟩ ∧ t.result = ⟨.none, 0, 0⟩ ∧ t.rxLen = 0 ∧ t.total = 0 ∧
    t.crcCalc = 0 ∧ t.crcRecv = 0 ∧ t.txCrc = 0 ∧ t.operands = ⟨0, 0, 0, 0⟩ ∧ t.crcAcc = 0xFFFF ∧
    t.latched = ⟨0, 0, 0, 0⟩ ∧ t.req = Vector.replicate 8 0 ∧ t.txIdx = 0 ∧ t.tmr = 0 ∧ t.elapsed = 0 ∧ t.de = false ∧
    t.inq = s.inq ∧ t.txReady = s.txReady ∧ t.sent = s.sent ∧ t.cfg = s.cfg ∧ t.agenda = rest

/-- R48, R262: right after reset every access of the host reads 0, but a word read of CRC, which reads 0x0000FFFF. -/
def Obligations.AfterResetOnlyCrcReadsNonzero : Prop :=
  ∀ (width : AccessWidth) (off : Offset),
    hostRead width off State.reset = if width = .word ∧ off = 0x01C then 0x0000FFFF else 0

/-- The invariant holds at reset (R48). -/
def Obligations.ResetMeetsTheInvariant : Prop := BlockInv State.reset ∧ OutcomeRecorded State.reset

/-- Every step keeps the invariant (R27, R32, R42-R44, R47): the flags agree with STATE, RESULT with its kind, the receive
buffer keeps its canonical form and its bounds, the counters agree with STATE, the request is the latched operands' frame, the
timers are bounded. -/
def Obligations.StepKeepsTheInvariant : Prop :=
  ∀ s t : State, BlockInv s → step s = .next t → BlockInv t

/-- Every step keeps the table of R221: after a completion, and until the next acceptance, each failure kind stands beside the
state the table says it records, and a success beside a frame whose CRC agrees. -/
def Obligations.StepKeepsTheOutcomeTable : Prop :=
  ∀ s t : State, BlockInv s → OutcomeRecorded s → step s = .next t → OutcomeRecorded t

/-- The block never stops (R79, R112, R220): from a state that meets the invariant every step, whatever the host writes and
whatever bytes arrive, answers a next state; no store falls outside the receive buffer. -/
def Obligations.NoStepFaultsOrRefuses : Prop :=
  ∀ s : State, BlockInv s → ∃ t, step s = .next t

/-- R188 and R228: nothing ends a transaction but Reset or a completion, each completion has exactly one of six outcomes, and
the outcome is the one the order of R228 gives. -/
def Obligations.OnlyTheSixOutcomesEndATransaction : Prop :=
  ∀ s t : State, BlockInv s → s.status.busy = true → step s = .next t → t.status.busy = false →
    (∀ rest, s.agenda ≠ .reset :: rest) →
      t.state = .idle ∧ t.status.done = true ∧
      ((s.state = .rxHeader ∧ 1000 ≤ s.elapsed ∧ t.result = ⟨.headerTimeout, 0, 0⟩ ∧ t.inq = s.inq) ∨
        (s.state = .rxHeader ∧ s.elapsed < 1000 ∧ isException (Memory.read t.rx 1) = true ∧
          t.result = ⟨.protocolException, Memory.read t.rx 2, 0⟩) ∨
        (s.state = .rxHeader ∧ s.elapsed < 1000 ∧ isException (Memory.read t.rx 1) = false ∧
          s.cfg.rxCap < 5 + (Memory.read t.rx 2).toNat ∧ t.result = ⟨.responseTooLarge, 0, 0⟩) ∨
        (s.state = .rxBody ∧ 1000 ≤ s.elapsed ∧ t.result = ⟨.bodyTimeout, 0, 0⟩ ∧ t.inq = s.inq) ∨
        (s.state = .rxBody ∧ s.elapsed < 1000 ∧ t.rxLen = t.total ∧ t.crcCalc ≠ t.crcRecv ∧
          t.result = ⟨.crcMismatch, 0, 0⟩) ∨
        (s.state = .rxBody ∧ s.elapsed < 1000 ∧ t.rxLen = t.total ∧ t.crcCalc = t.crcRecv ∧
          t.result.errKind = .none ∧ t.result.excCode = 0))

/-- R82, R230, R231: after a completion no step changes the saved values, but an accepted READ_HOLDING and Reset. -/
def Obligations.CompletedResultsStandUntilAcceptance : Prop :=
  ∀ s t : State, BlockInv s → s.status.done = true → step s = .next t → (∀ rest, s.agenda ≠ .reset :: rest) →
    (∀ w rest, s.agenda = .hostWrite .word 0x000 w :: rest → opField w ≠ 0x03) →
      t.result = s.result ∧ t.status.done = true ∧ t.status.ok = s.status.ok ∧ t.status.busy = false ∧ t.state = .idle ∧
        t.rx = s.rx ∧ t.rxLen = s.rxLen ∧ t.total = s.total ∧ t.crcCalc = s.crcCalc ∧ t.crcRecv = s.crcRecv ∧
        ∀ i, regView t i = regView s i

/-- R41, R85, R268: while a transaction is outstanding no step but Reset changes the latched operands, the request or the
parameters, whatever the host writes to the operand registers. -/
def Obligations.OperandWritesNeverReachTheTransactionInFlight : Prop :=
  ∀ s t : State, s.status.busy = true → step s = .next t → (∀ rest, s.agenda ≠ .reset :: rest) →
    t.latched = s.latched ∧ t.req = s.req ∧ t.txCrc = s.txCrc ∧ t.cfg = s.cfg

/-- R23, R78, R163, R187: in every state a byte that arrives is kept, at the end of the inbound queue, and changes nothing else;
and the queue loses bytes in two ways only: an acceptance empties it, and RX_HEADER or RX_BODY pops its oldest byte before the
deadline. -/
def Obligations.InboundQueueLosesBytesOnlyToFlushOrPop : Prop :=
  (∀ (s : State) (b : Byte) (rest : List Label), s.agenda = .rxArrive b :: rest →
    step s = .next { s with agenda := rest, inq := s.inq ++ [b] }) ∧
  ∀ s t : State, step s = .next t →
    t.inq = s.inq ∨
      (∃ b rest, s.agenda = .rxArrive b :: rest ∧ t.inq = s.inq ++ [b]) ∨
      (∃ w rest, s.agenda = .hostWrite .word 0x000 w :: rest ∧ opField w = 0x03 ∧ s.status.busy = false ∧
        t.state = .preDelay ∧ t.inq = []) ∨
      ((s.state = .rxHeader ∨ s.state = .rxBody) ∧ s.elapsed < 1000 ∧ ∃ b, s.inq = b :: t.inq ∧
        t.rxLen = s.rxLen + 1 ∧ t.rx = Memory.write s.rx s.rxLen.toNat b)

/-- R43: the contents of the receive buffer at or above RXLEN are unobservable. Two states that differ there at most show the
host the same words everywhere, and their next steps lead to two states that again differ there at most. So no claim about
what the host sees depends on the reset contents the model chose (notes/assumptions/6.md). -/
def Obligations.BufferAboveRxLenIsUnobservable : Prop :=
  ∀ s u : State, BlockInv s → OutcomeRecorded s → Memory.wf u.rx = true → SameBelowRxLen s u →
    SameHostView s u ∧
      ∃ t v, step s = .next t ∧ step u = .next v ∧ Memory.wf v.rx = true ∧ SameBelowRxLen t v

/-! ### The deadline window under any host and transport -/

/-- R191: from TxComplete to completion at most max(T_POST_MS, T_RESP_MS) Ticks pass, whatever the host writes and whatever the
transport does. TxComplete opens the window with that many Ticks left; every step in it but a Reset completes the transaction, and
is no Tick, or stays in the window, using up one of the Ticks left exactly when it is a Tick. So no Tick passes when none is
left. -/
def Obligations.WindowTicksAreBounded : Prop :=
  (∀ (s : State) (rest : List Label), s.agenda = .txComplete :: rest → s.state = .tx → s.txIdx = 8 →
    ∃ t, step s = .next t ∧ InWindow t ∧ ticksLeft t = max s.cfg.tPostMs 1000) ∧
  ∀ s t : State, BlockInv s → InWindow s → (∀ rest, s.agenda ≠ .reset :: rest) → step s = .next t →
    (t.state = .idle ∧ t.status.done = true ∧ t.status.busy = false ∧ takesTick s = false) ∨
      (InWindow t ∧ ticksLeft t + (if takesTick s then 1 else 0) = ticksLeft s)

/-- R191, R272: with T_POST_MS >= T_RESP_MS the deadline has passed whenever RX_HEADER is entered, and RX_BODY never is: this holds
of every state outside reception, and every step keeps it, whatever the host and the transport do. So the only step but Reset that
ends a transaction is HeaderTimeout, and it pops no byte. -/
def Obligations.LongPostDelayLeavesOnlyHeaderTimeout : Prop :=
  (∀ s : State, 1000 ≤ s.cfg.tPostMs → s.state = .idle ∨ s.state = .preDelay ∨ s.state = .tx → PostDelayOutlastsDeadline s) ∧
  ∀ s t : State, PostDelayOutlastsDeadline s → step s = .next t →
    PostDelayOutlastsDeadline t ∧
      (s.status.busy = true → t.status.busy = false → (∀ rest, s.agenda ≠ .reset :: rest) →
        s.state = .rxHeader ∧ t.state = .idle ∧ readResult t = .err .headerTimeout 0 ∧ t.inq = s.inq)

/-! ### The transport's readiness -/

/-- R23, R166: the transport becomes ready to take a byte, or stops being so, at any time; the label sets the readiness and changes
nothing else. That the readiness is a field of the state, set by a label of the transport, is the model's choice
(notes/assumptions/12.md). -/
def Obligations.ReadinessLabelSetsOnlyReadiness : Prop :=
  ∀ (s : State) (ready : Bool) (rest : List Label), s.agenda = .txReady ready :: rest →
    step s = .next { s with agenda := rest, txReady := ready }
end

