-- ==== Sys2Proof/Laws/Crc.lean ====
section
/-! SUPPORT. Small lemmas of the CRC engine and of the byte order. -/

namespace Sys2Proof.Machine

/-- A bit of `hi ++ lo`. -/
theorem pair_bit (hi lo : Byte) (i : Nat) : (pair hi lo).getLsbD i = if i < 8 then lo.getLsbD i else hi.getLsbD (i - 8) :=
  BitVec.getLsbD_append

/-- A bit of the function-code byte. -/
theorem fcByte_bit (b : Bool) (fc : BitVec 7) (i : Nat) :
    (fcByte b fc).getLsbD i = if i < 7 then fc.getLsbD i else (BitVec.ofBool b).getLsbD (i - 7) :=
  BitVec.getLsbD_append

@[simp] theorem hiByte_pair (hi lo : Byte) : hiByte (pair hi lo) = hi := by
  refine BitVec.eq_of_getLsbD_eq fun i h => ?_
  simp [hiByte, pair_bit, h]

@[simp] theorem loByte_pair (hi lo : Byte) : loByte (pair hi lo) = lo := by
  refine BitVec.eq_of_getLsbD_eq fun i h => ?_
  simp [loByte, pair_bit, h]

@[simp] theorem pair_hi_lo (v : Half) : pair (hiByte v) (loByte v) = v := by
  refine BitVec.eq_of_getLsbD_eq fun i h => ?_
  rw [pair_bit]
  split
  · next h8 => simp [loByte, h8]
  · next h8 =>
    have e : 8 + (i - 8) = i := by omega
    have l : i - 8 < 8 := by omega
    simp [hiByte, e, l]

/-- The engine processes a sequence as it streams (R144). -/
theorem crcFold_append (c : Half) (a b : List Byte) : crcFold c (a ++ b) = crcFold (crcFold c a) b :=
  List.foldl_append

@[simp] theorem crcFold_nil (c : Half) : crcFold c [] = c := rfl

@[simp] theorem crcFold_cons (c : Half) (b : Byte) (s : List Byte) : crcFold c (b :: s) = crcFold (crcByte c b) s := rfl

theorem crc16_nil : crc16 [] = 0xFFFF := rfl

theorem crc16_snoc (s : List Byte) (b : Byte) : crc16 (s ++ [b]) = crcByte (crc16 s) b := by
  simp [crc16, crcFold_append]

@[simp] theorem appendCrc_length (m : List Byte) : (appendCrc m).length = m.length + 2 := by simp [appendCrc]

@[simp] theorem isException_fcByte (b : Bool) (fc : BitVec 7) : isException (fcByte b fc) = b := by
  rw [isException, fcByte_bit]
  simp

@[simp] theorem extract_fcByte (b : Bool) (fc : BitVec 7) : (fcByte b fc).extractLsb' 0 7 = fc := by
  refine BitVec.eq_of_getLsbD_eq fun i h => ?_
  simp [fcByte_bit, h]

/-- The function-code byte is its bit 7 above its low seven bits. -/
theorem fcByte_eta (b : Byte) : fcByte (isException b) (b.extractLsb' 0 7) = b := by
  refine BitVec.eq_of_getLsbD_eq fun i h => ?_
  rw [fcByte_bit]
  split
  · next h7 => simp [h7]
  · next h7 =>
    have e : i = 7 := by omega
    simp [e, isException]

theorem totalLength_lt (n : Byte) : totalLength n < 2 ^ 9 := by
  have := n.isLt
  simp only [totalLength, hdrLen, crcLen]
  omega

end Sys2Proof.Machine
end

