-- ==== Sys2Proof/Laws/Memory.lean ====
section
/-! SUPPORT. The laws of the receive buffer: a read after a write, and that every write keeps the canonical form. -/

namespace Sys2Proof.Machine

@[simp] theorem Memory.read_nil (x : Nat) : Memory.read [] x = Memory.unlisted := rfl

@[simp] theorem Memory.wf_nil : Memory.wf [] = true := rfl

theorem Memory.read_cons (a : Nat) (b : Byte) (m : Memory) (x : Nat) :
    Memory.read ((a, b) :: m) x = if a = x then b else Memory.read m x := rfl

theorem Memory.wf_cons (a : Nat) (b : Byte) (m : Memory) :
    Memory.wf ((a, b) :: m) = true ↔ b ≠ Memory.unlisted ∧ (∀ c ∈ m, a < c.1) ∧ Memory.wf m = true := by
  simp [Memory.wf, and_assoc]

/-- Below every listed index nothing is listed. -/
theorem Memory.read_below {m : Memory} {x : Nat} (h : ∀ c ∈ m, x < c.1) : Memory.read m x = Memory.unlisted := by
  induction m with
  | nil => rfl
  | cons c m ih =>
    obtain ⟨a, b⟩ := c
    have ha : x < a := h (a, b) (by simp)
    rw [Memory.read_cons, if_neg (by omega)]
    exact ih fun c hc => h c (by simp [hc])

/-- A write lists its own index or an index that was listed. -/
theorem Memory.mem_write {m : Memory} {x : Nat} {v : Byte} {c : Host.Cell} (h : c ∈ Memory.write m x v) :
    c.1 = x ∨ c ∈ m := by
  induction m with
  | nil => simp only [Memory.write] at h; split at h <;> simp_all
  | cons d m ih =>
    obtain ⟨a, b⟩ := d
    simp only [Memory.write] at h
    split at h
    · split at h
      · exact .inr h
      · rcases List.mem_cons.1 h with h | h
        · exact .inl (by simp [h])
        · exact .inr h
    · split at h
      · split at h
        · exact .inr (List.mem_cons_of_mem _ h)
        · rcases List.mem_cons.1 h with h | h
          · exact .inl (by simp [h])
          · exact .inr (List.mem_cons_of_mem _ h)
      · rcases List.mem_cons.1 h with h | h
        · exact .inr (by simp [h])
        · exact (ih h).imp id (List.mem_cons_of_mem _)

/-- A write keeps the canonical form. -/
theorem Memory.wf_write {m : Memory} (h : Memory.wf m = true) (x : Nat) (v : Byte) :
    Memory.wf (Memory.write m x v) = true := by
  induction m with
  | nil => simp only [Memory.write]; split <;> simp_all [Memory.wf]
  | cons d m ih =>
    obtain ⟨a, b⟩ := d
    obtain ⟨hb, hall, hm⟩ := (Memory.wf_cons a b m).1 h
    simp only [Memory.write]
    split
    · next hlt =>
      split
      · exact h
      · next hv =>
        refine (Memory.wf_cons _ _ _).2 ⟨hv, fun c hc => ?_, h⟩
        rcases List.mem_cons.1 hc with rfl | hc
        · exact hlt
        · exact lt_trans hlt (hall c hc)
    · next hlt =>
      split
      · next heq =>
        subst heq
        split
        · exact hm
        · next hv => exact (Memory.wf_cons _ _ _).2 ⟨hv, hall, hm⟩
      · next hne =>
        refine (Memory.wf_cons _ _ _).2 ⟨hb, fun c hc => ?_, ih hm⟩
        rcases Memory.mem_write hc with hx | hc
        · omega
        · exact hall c hc

/-- A read after a write to the same index gives the byte written. -/
theorem Memory.read_write_same {m : Memory} (h : Memory.wf m = true) (x : Nat) (v : Byte) :
    Memory.read (Memory.write m x v) x = v := by
  induction m with
  | nil => simp only [Memory.write]; split <;> simp_all [Memory.read]
  | cons d m ih =>
    obtain ⟨a, b⟩ := d
    obtain ⟨hb, hall, hm⟩ := (Memory.wf_cons a b m).1 h
    simp only [Memory.write]
    split
    · next hlt =>
      split
      · next hv =>
        rw [hv]
        refine Memory.read_below fun c hc => ?_
        rcases List.mem_cons.1 hc with rfl | hc
        · exact hlt
        · exact lt_trans hlt (hall c hc)
      · simp [Memory.read]
    · next hlt =>
      split
      · next heq =>
        subst heq
        split
        · next hv => rw [hv]; exact Memory.read_below hall
        · simp [Memory.read]
      · next hne => rw [Memory.read_cons, if_neg (by omega)]; exact ih hm

/-- A write leaves every other index alone. -/
theorem Memory.read_write_other {m : Memory} {x y : Nat} (v : Byte) (h : x ≠ y) :
    Memory.read (Memory.write m x v) y = Memory.read m y := by
  induction m with
  | nil => simp only [Memory.write]; split <;> simp [Memory.read, h]
  | cons d m ih =>
    obtain ⟨a, b⟩ := d
    simp only [Memory.write]
    split
    · split <;> simp [Memory.read, h]
    · split
      · next heq => subst heq; split <;> simp [Memory.read, h]
      · simp only [Memory.read_cons, ih]

/-- Both laws at once. -/
theorem Memory.read_write {m : Memory} (h : Memory.wf m = true) (x y : Nat) (v : Byte) :
    Memory.read (Memory.write m x v) y = if x = y then v else Memory.read m y := by
  split
  · next e => subst e; exact Memory.read_write_same h x v
  · next e => exact Memory.read_write_other v e

/-- Below the index written, the bytes are those of before. -/
theorem rxBytes_write (m : Memory) {x n : Nat} (v : Byte) (h : n ≤ x) :
    rxBytes (Memory.write m x v) n = rxBytes m n := by
  refine List.map_congr_left fun j hj => Memory.read_write_other v ?_
  have := List.mem_range.1 hj
  omega

/-- One byte more. -/
theorem rxBytes_succ (m : Memory) (n : Nat) : rxBytes m (n + 1) = rxBytes m n ++ [Memory.read m n] := by
  simp [rxBytes, List.range_succ]

@[simp] theorem rxBytes_zero (m : Memory) : rxBytes m 0 = [] := rfl

@[simp] theorem rxBytes_length (m : Memory) (n : Nat) : (rxBytes m n).length = n := by simp [rxBytes]

end Sys2Proof.Machine
end

