-- ==== Sys2Proof/Laws/PerInstr.lean ====
section
/-! SUPPORT. Facts about every instruction as syntax, one lemma per constructor. -/

namespace Sys2Proof.Laws.EncodedForm

open Sys2Proof Sys2Proof.Machine

/-- The form an encoding has: a command word with its reserved bits 0 (R100), a request of exactly 8 bytes whose second is 0x03
(R105), a response header of exactly 3 bytes (R107, R108, R173). -/
def Statement (i : Instr) : Prop :=
  match encode i with
  | .cmd w => w.extractLsb' 16 16 = 0#16
  | .sent f => f.length = reqLen ∧ f.getD 1 0 = fcReadHolding
  | .received h => h.length = hdrLen

/-- The upper half of a command word is what `cmdWord` writes there. -/
theorem cmdWord_reserved (data op : Byte) : (cmdWord data op).extractLsb' 16 16 = 0#16 := by
  apply BitVec.eq_of_getLsbD_eq
  intro i hi
  have outer : (cmdWord data op).getLsbD (16 + i) = (0#16 ++ data).getLsbD (16 + i - 8) :=
    (BitVec.getLsbD_append (x := 0#16 ++ data) (y := op)).trans (if_neg (by omega))
  have inner : (0#16 ++ data).getLsbD (16 + i - 8) = (0#16).getLsbD (16 + i - 8 - 8) :=
    BitVec.getLsbD_append.trans (if_neg (by omega))
  simp [hi, outer, inner]

theorem crcInit : Statement .crcInit := cmdWord_reserved _ _
theorem crcByte (data : Byte) : Statement (.crcByte data) := cmdWord_reserved _ _
theorem readHolding : Statement .readHolding := cmdWord_reserved _ _
theorem illegalCmd (op : Byte) : Statement (.illegalCmd op) := cmdWord_reserved _ _
theorem req8 (slaveId : Byte) (startAddr regCount : Half) : Statement (.req8 slaveId startAddr regCount) := ⟨rfl, rfl⟩
theorem rspn (slaveId : Byte) (fc : BitVec 7) (byteCount : Byte) : Statement (.rspn slaveId fc byteCount) := rfl
theorem rspx (slaveId : Byte) (fc : BitVec 7) (exceptionCode : Byte) : Statement (.rspx slaveId fc exceptionCode) := rfl

end Sys2Proof.Laws.EncodedForm
end

