-- ==== Sys2Proof/Laws/State.lean ====
section
/-! SUPPORT. One lemma per field of each update of the state, so that no later proof unfolds a record update. -/

namespace Sys2Proof.Machine

variable (s : State)

/-! ### rejectCommand -/

@[simp] theorem rejectCommand_cfg : (rejectCommand s).cfg = s.cfg := rfl
@[simp] theorem rejectCommand_status : (rejectCommand s).status = rejectedFlags s.status := rfl
@[simp] theorem rejectCommand_operands : (rejectCommand s).operands = s.operands := rfl
@[simp] theorem rejectCommand_result : (rejectCommand s).result = s.result := rfl
@[simp] theorem rejectCommand_crcAcc : (rejectCommand s).crcAcc = s.crcAcc := rfl
@[simp] theorem rejectCommand_txCrc : (rejectCommand s).txCrc = s.txCrc := rfl
@[simp] theorem rejectCommand_crcCalc : (rejectCommand s).crcCalc = s.crcCalc := rfl
@[simp] theorem rejectCommand_crcRecv : (rejectCommand s).crcRecv = s.crcRecv := rfl
@[simp] theorem rejectCommand_state : (rejectCommand s).state = s.state := rfl
@[simp] theorem rejectCommand_de : (rejectCommand s).de = s.de := rfl
@[simp] theorem rejectCommand_latched : (rejectCommand s).latched = s.latched := rfl
@[simp] theorem rejectCommand_req : (rejectCommand s).req = s.req := rfl
@[simp] theorem rejectCommand_txIdx : (rejectCommand s).txIdx = s.txIdx := rfl
@[simp] theorem rejectCommand_rx : (rejectCommand s).rx = s.rx := rfl
@[simp] theorem rejectCommand_rxLen : (rejectCommand s).rxLen = s.rxLen := rfl
@[simp] theorem rejectCommand_total : (rejectCommand s).total = s.total := rfl
@[simp] theorem rejectCommand_tmr : (rejectCommand s).tmr = s.tmr := rfl
@[simp] theorem rejectCommand_elapsed : (rejectCommand s).elapsed = s.elapsed := rfl
@[simp] theorem rejectCommand_inq : (rejectCommand s).inq = s.inq := rfl
@[simp] theorem rejectCommand_txReady : (rejectCommand s).txReady = s.txReady := rfl
@[simp] theorem rejectCommand_sent : (rejectCommand s).sent = s.sent := rfl
@[simp] theorem rejectCommand_readData : (rejectCommand s).readData = s.readData := rfl
@[simp] theorem rejectCommand_agenda : (rejectCommand s).agenda = s.agenda := rfl

/-! ### setCrcAcc -/

@[simp] theorem setCrcAcc_cfg (c : Half) : (setCrcAcc c s).cfg = s.cfg := rfl
@[simp] theorem setCrcAcc_status (c : Half) : (setCrcAcc c s).status = crcCommandFlags s.status := rfl
@[simp] theorem setCrcAcc_operands (c : Half) : (setCrcAcc c s).operands = s.operands := rfl
@[simp] theorem setCrcAcc_result (c : Half) : (setCrcAcc c s).result = s.result := rfl
@[simp] theorem setCrcAcc_crcAcc (c : Half) : (setCrcAcc c s).crcAcc = c := rfl
@[simp] theorem setCrcAcc_txCrc (c : Half) : (setCrcAcc c s).txCrc = s.txCrc := rfl
@[simp] theorem setCrcAcc_crcCalc (c : Half) : (setCrcAcc c s).crcCalc = s.crcCalc := rfl
@[simp] theorem setCrcAcc_crcRecv (c : Half) : (setCrcAcc c s).crcRecv = s.crcRecv := rfl
@[simp] theorem setCrcAcc_state (c : Half) : (setCrcAcc c s).state = s.state := rfl
@[simp] theorem setCrcAcc_de (c : Half) : (setCrcAcc c s).de = s.de := rfl
@[simp] theorem setCrcAcc_latched (c : Half) : (setCrcAcc c s).latched = s.latched := rfl
@[simp] theorem setCrcAcc_req (c : Half) : (setCrcAcc c s).req = s.req := rfl
@[simp] theorem setCrcAcc_txIdx (c : Half) : (setCrcAcc c s).txIdx = s.txIdx := rfl
@[simp] theorem setCrcAcc_rx (c : Half) : (setCrcAcc c s).rx = s.rx := rfl
@[simp] theorem setCrcAcc_rxLen (c : Half) : (setCrcAcc c s).rxLen = s.rxLen := rfl
@[simp] theorem setCrcAcc_total (c : Half) : (setCrcAcc c s).total = s.total := rfl
@[simp] theorem setCrcAcc_tmr (c : Half) : (setCrcAcc c s).tmr = s.tmr := rfl
@[simp] theorem setCrcAcc_elapsed (c : Half) : (setCrcAcc c s).elapsed = s.elapsed := rfl
@[simp] theorem setCrcAcc_inq (c : Half) : (setCrcAcc c s).inq = s.inq := rfl
@[simp] theorem setCrcAcc_txReady (c : Half) : (setCrcAcc c s).txReady = s.txReady := rfl
@[simp] theorem setCrcAcc_sent (c : Half) : (setCrcAcc c s).sent = s.sent := rfl
@[simp] theorem setCrcAcc_readData (c : Half) : (setCrcAcc c s).readData = s.readData := rfl
@[simp] theorem setCrcAcc_agenda (c : Half) : (setCrcAcc c s).agenda = s.agenda := rfl

/-! ### frameRequest -/

@[simp] theorem frameRequest_cfg (i : Byte) (a n : Half) : (frameRequest i a n s).cfg = s.cfg := rfl
@[simp] theorem frameRequest_status (i : Byte) (a n : Half) : (frameRequest i a n s).status = s.status := rfl
@[simp] theorem frameRequest_operands (i : Byte) (a n : Half) : (frameRequest i a n s).operands = s.operands := rfl
@[simp] theorem frameRequest_result (i : Byte) (a n : Half) : (frameRequest i a n s).result = s.result := rfl
@[simp] theorem frameRequest_crcAcc (i : Byte) (a n : Half) : (frameRequest i a n s).crcAcc = s.crcAcc := rfl
@[simp] theorem frameRequest_txCrc (i : Byte) (a n : Half) : (frameRequest i a n s).txCrc = requestCrc i a n := rfl
@[simp] theorem frameRequest_crcCalc (i : Byte) (a n : Half) : (frameRequest i a n s).crcCalc = s.crcCalc := rfl
@[simp] theorem frameRequest_crcRecv (i : Byte) (a n : Half) : (frameRequest i a n s).crcRecv = s.crcRecv := rfl
@[simp] theorem frameRequest_state (i : Byte) (a n : Half) : (frameRequest i a n s).state = s.state := rfl
@[simp] theorem frameRequest_de (i : Byte) (a n : Half) : (frameRequest i a n s).de = s.de := rfl
@[simp] theorem frameRequest_latched (i : Byte) (a n : Half) : (frameRequest i a n s).latched = s.latched := rfl
@[simp] theorem frameRequest_req (i : Byte) (a n : Half) : (frameRequest i a n s).req = requestFrame i a n := rfl
@[simp] theorem frameRequest_txIdx (i : Byte) (a n : Half) : (frameRequest i a n s).txIdx = s.txIdx := rfl
@[simp] theorem frameRequest_rx (i : Byte) (a n : Half) : (frameRequest i a n s).rx = s.rx := rfl
@[simp] theorem frameRequest_rxLen (i : Byte) (a n : Half) : (frameRequest i a n s).rxLen = s.rxLen := rfl
@[simp] theorem frameRequest_total (i : Byte) (a n : Half) : (frameRequest i a n s).total = s.total := rfl
@[simp] theorem frameRequest_tmr (i : Byte) (a n : Half) : (frameRequest i a n s).tmr = s.tmr := rfl
@[simp] theorem frameRequest_elapsed (i : Byte) (a n : Half) : (frameRequest i a n s).elapsed = s.elapsed := rfl
@[simp] theorem frameRequest_inq (i : Byte) (a n : Half) : (frameRequest i a n s).inq = s.inq := rfl
@[simp] theorem frameRequest_txReady (i : Byte) (a n : Half) : (frameRequest i a n s).txReady = s.txReady := rfl
@[simp] theorem frameRequest_sent (i : Byte) (a n : Half) : (frameRequest i a n s).sent = s.sent := rfl
@[simp] theorem frameRequest_readData (i : Byte) (a n : Half) : (frameRequest i a n s).readData = s.readData := rfl
@[simp] theorem frameRequest_agenda (i : Byte) (a n : Half) : (frameRequest i a n s).agenda = s.agenda := rfl

/-! ### acceptTransaction -/

@[simp] theorem acceptTransaction_cfg : (acceptTransaction s).cfg = s.cfg := rfl
@[simp] theorem acceptTransaction_status : (acceptTransaction s).status = acceptedFlags := rfl
@[simp] theorem acceptTransaction_operands : (acceptTransaction s).operands = s.operands := rfl
@[simp] theorem acceptTransaction_result : (acceptTransaction s).result = Result.clear := rfl
@[simp] theorem acceptTransaction_crcAcc : (acceptTransaction s).crcAcc = s.crcAcc := rfl
@[simp] theorem acceptTransaction_txCrc : (acceptTransaction s).txCrc = requestCrc s.operands.slaveId s.operands.startAddr s.operands.regCount := rfl
@[simp] theorem acceptTransaction_crcCalc : (acceptTransaction s).crcCalc = 0 := rfl
@[simp] theorem acceptTransaction_crcRecv : (acceptTransaction s).crcRecv = 0 := rfl
@[simp] theorem acceptTransaction_state : (acceptTransaction s).state = .preDelay := rfl
@[simp] theorem acceptTransaction_de : (acceptTransaction s).de = s.de := rfl
@[simp] theorem acceptTransaction_latched : (acceptTransaction s).latched = s.operands := rfl
@[simp] theorem acceptTransaction_req : (acceptTransaction s).req = requestFrame s.operands.slaveId s.operands.startAddr s.operands.regCount := rfl
@[simp] theorem acceptTransaction_txIdx : (acceptTransaction s).txIdx = 0 := rfl
@[simp] theorem acceptTransaction_rx : (acceptTransaction s).rx = s.rx := rfl
@[simp] theorem acceptTransaction_rxLen : (acceptTransaction s).rxLen = 0 := rfl
@[simp] theorem acceptTransaction_total : (acceptTransaction s).total = 0 := rfl
@[simp] theorem acceptTransaction_tmr : (acceptTransaction s).tmr = 0 := rfl
@[simp] theorem acceptTransaction_elapsed : (acceptTransaction s).elapsed = 0 := rfl
@[simp] theorem acceptTransaction_inq : (acceptTransaction s).inq = [] := rfl
@[simp] theorem acceptTransaction_txReady : (acceptTransaction s).txReady = s.txReady := rfl
@[simp] theorem acceptTransaction_sent : (acceptTransaction s).sent = s.sent := rfl
@[simp] theorem acceptTransaction_readData : (acceptTransaction s).readData = s.readData := rfl
@[simp] theorem acceptTransaction_agenda : (acceptTransaction s).agenda = s.agenda := rfl

/-! ### finish -/

@[simp] theorem finish_cfg (k : ErrKind) (e n : Byte) : (finish k e n s).cfg = s.cfg := rfl
@[simp] theorem finish_status (k : ErrKind) (e n : Byte) : (finish k e n s).status = completedFlags k s.status := rfl
@[simp] theorem finish_operands (k : ErrKind) (e n : Byte) : (finish k e n s).operands = s.operands := rfl
@[simp] theorem finish_result (k : ErrKind) (e n : Byte) : (finish k e n s).result = ⟨k, e, n⟩ := rfl
@[simp] theorem finish_crcAcc (k : ErrKind) (e n : Byte) : (finish k e n s).crcAcc = s.crcAcc := rfl
@[simp] theorem finish_txCrc (k : ErrKind) (e n : Byte) : (finish k e n s).txCrc = s.txCrc := rfl
@[simp] theorem finish_crcCalc (k : ErrKind) (e n : Byte) : (finish k e n s).crcCalc = s.crcCalc := rfl
@[simp] theorem finish_crcRecv (k : ErrKind) (e n : Byte) : (finish k e n s).crcRecv = s.crcRecv := rfl
@[simp] theorem finish_state (k : ErrKind) (e n : Byte) : (finish k e n s).state = .idle := rfl
@[simp] theorem finish_de (k : ErrKind) (e n : Byte) : (finish k e n s).de = s.de := rfl
@[simp] theorem finish_latched (k : ErrKind) (e n : Byte) : (finish k e n s).latched = s.latched := rfl
@[simp] theorem finish_req (k : ErrKind) (e n : Byte) : (finish k e n s).req = s.req := rfl
@[simp] theorem finish_txIdx (k : ErrKind) (e n : Byte) : (finish k e n s).txIdx = s.txIdx := rfl
@[simp] theorem finish_rx (k : ErrKind) (e n : Byte) : (finish k e n s).rx = s.rx := rfl
@[simp] theorem finish_rxLen (k : ErrKind) (e n : Byte) : (finish k e n s).rxLen = s.rxLen := rfl
@[simp] theorem finish_total (k : ErrKind) (e n : Byte) : (finish k e n s).total = s.total := rfl
@[simp] theorem finish_tmr (k : ErrKind) (e n : Byte) : (finish k e n s).tmr = s.tmr := rfl
@[simp] theorem finish_elapsed (k : ErrKind) (e n : Byte) : (finish k e n s).elapsed = s.elapsed := rfl
@[simp] theorem finish_inq (k : ErrKind) (e n : Byte) : (finish k e n s).inq = s.inq := rfl
@[simp] theorem finish_txReady (k : ErrKind) (e n : Byte) : (finish k e n s).txReady = s.txReady := rfl
@[simp] theorem finish_sent (k : ErrKind) (e n : Byte) : (finish k e n s).sent = s.sent := rfl
@[simp] theorem finish_readData (k : ErrKind) (e n : Byte) : (finish k e n s).readData = s.readData := rfl
@[simp] theorem finish_agenda (k : ErrKind) (e n : Byte) : (finish k e n s).agenda = s.agenda := rfl

/-! ### beginTransmit -/

@[simp] theorem beginTransmit_cfg : (beginTransmit s).cfg = s.cfg := rfl
@[simp] theorem beginTransmit_status : (beginTransmit s).status = s.status := rfl
@[simp] theorem beginTransmit_operands : (beginTransmit s).operands = s.operands := rfl
@[simp] theorem beginTransmit_result : (beginTransmit s).result = s.result := rfl
@[simp] theorem beginTransmit_crcAcc : (beginTransmit s).crcAcc = s.crcAcc := rfl
@[simp] theorem beginTransmit_txCrc : (beginTransmit s).txCrc = s.txCrc := rfl
@[simp] theorem beginTransmit_crcCalc : (beginTransmit s).crcCalc = s.crcCalc := rfl
@[simp] theorem beginTransmit_crcRecv : (beginTransmit s).crcRecv = s.crcRecv := rfl
@[simp] theorem beginTransmit_state : (beginTransmit s).state = .tx := rfl
@[simp] theorem beginTransmit_de : (beginTransmit s).de = true := rfl
@[simp] theorem beginTransmit_latched : (beginTransmit s).latched = s.latched := rfl
@[simp] theorem beginTransmit_req : (beginTransmit s).req = s.req := rfl
@[simp] theorem beginTransmit_txIdx : (beginTransmit s).txIdx = s.txIdx := rfl
@[simp] theorem beginTransmit_rx : (beginTransmit s).rx = s.rx := rfl
@[simp] theorem beginTransmit_rxLen : (beginTransmit s).rxLen = s.rxLen := rfl
@[simp] theorem beginTransmit_total : (beginTransmit s).total = s.total := rfl
@[simp] theorem beginTransmit_tmr : (beginTransmit s).tmr = s.tmr := rfl
@[simp] theorem beginTransmit_elapsed : (beginTransmit s).elapsed = s.elapsed := rfl
@[simp] theorem beginTransmit_inq : (beginTransmit s).inq = s.inq := rfl
@[simp] theorem beginTransmit_txReady : (beginTransmit s).txReady = s.txReady := rfl
@[simp] theorem beginTransmit_sent : (beginTransmit s).sent = s.sent := rfl
@[simp] theorem beginTransmit_readData : (beginTransmit s).readData = s.readData := rfl
@[simp] theorem beginTransmit_agenda : (beginTransmit s).agenda = s.agenda := rfl

/-! ### pushByte -/

@[simp] theorem pushByte_cfg : (pushByte s).cfg = s.cfg := rfl
@[simp] theorem pushByte_status : (pushByte s).status = s.status := rfl
@[simp] theorem pushByte_operands : (pushByte s).operands = s.operands := rfl
@[simp] theorem pushByte_result : (pushByte s).result = s.result := rfl
@[simp] theorem pushByte_crcAcc : (pushByte s).crcAcc = s.crcAcc := rfl
@[simp] theorem pushByte_txCrc : (pushByte s).txCrc = s.txCrc := rfl
@[simp] theorem pushByte_crcCalc : (pushByte s).crcCalc = s.crcCalc := rfl
@[simp] theorem pushByte_crcRecv : (pushByte s).crcRecv = s.crcRecv := rfl
@[simp] theorem pushByte_state : (pushByte s).state = s.state := rfl
@[simp] theorem pushByte_de : (pushByte s).de = s.de := rfl
@[simp] theorem pushByte_latched : (pushByte s).latched = s.latched := rfl
@[simp] theorem pushByte_req : (pushByte s).req = s.req := rfl
@[simp] theorem pushByte_txIdx : (pushByte s).txIdx = s.txIdx + 1 := rfl
@[simp] theorem pushByte_rx : (pushByte s).rx = s.rx := rfl
@[simp] theorem pushByte_rxLen : (pushByte s).rxLen = s.rxLen := rfl
@[simp] theorem pushByte_total : (pushByte s).total = s.total := rfl
@[simp] theorem pushByte_tmr : (pushByte s).tmr = s.tmr := rfl
@[simp] theorem pushByte_elapsed : (pushByte s).elapsed = s.elapsed := rfl
@[simp] theorem pushByte_inq : (pushByte s).inq = s.inq := rfl
@[simp] theorem pushByte_txReady : (pushByte s).txReady = s.txReady := rfl
@[simp] theorem pushByte_sent : (pushByte s).sent = s.sent ++ [reqByte s s.txIdx.toNat] := rfl
@[simp] theorem pushByte_readData : (pushByte s).readData = s.readData := rfl
@[simp] theorem pushByte_agenda : (pushByte s).agenda = s.agenda := rfl

/-! ### endTransmit -/

@[simp] theorem endTransmit_cfg : (endTransmit s).cfg = s.cfg := rfl
@[simp] theorem endTransmit_status : (endTransmit s).status = s.status := rfl
@[simp] theorem endTransmit_operands : (endTransmit s).operands = s.operands := rfl
@[simp] theorem endTransmit_result : (endTransmit s).result = s.result := rfl
@[simp] theorem endTransmit_crcAcc : (endTransmit s).crcAcc = s.crcAcc := rfl
@[simp] theorem endTransmit_txCrc : (endTransmit s).txCrc = s.txCrc := rfl
@[simp] theorem endTransmit_crcCalc : (endTransmit s).crcCalc = s.crcCalc := rfl
@[simp] theorem endTransmit_crcRecv : (endTransmit s).crcRecv = s.crcRecv := rfl
@[simp] theorem endTransmit_state : (endTransmit s).state = .postDelay := rfl
@[simp] theorem endTransmit_de : (endTransmit s).de = false := rfl
@[simp] theorem endTransmit_latched : (endTransmit s).latched = s.latched := rfl
@[simp] theorem endTransmit_req : (endTransmit s).req = s.req := rfl
@[simp] theorem endTransmit_txIdx : (endTransmit s).txIdx = s.txIdx := rfl
@[simp] theorem endTransmit_rx : (endTransmit s).rx = s.rx := rfl
@[simp] theorem endTransmit_rxLen : (endTransmit s).rxLen = s.rxLen := rfl
@[simp] theorem endTransmit_total : (endTransmit s).total = s.total := rfl
@[simp] theorem endTransmit_tmr : (endTransmit s).tmr = 0 := rfl
@[simp] theorem endTransmit_elapsed : (endTransmit s).elapsed = 0 := rfl
@[simp] theorem endTransmit_inq : (endTransmit s).inq = s.inq := rfl
@[simp] theorem endTransmit_txReady : (endTransmit s).txReady = s.txReady := rfl
@[simp] theorem endTransmit_sent : (endTransmit s).sent = s.sent := rfl
@[simp] theorem endTransmit_readData : (endTransmit s).readData = s.readData := rfl
@[simp] theorem endTransmit_agenda : (endTransmit s).agenda = s.agenda := rfl

/-! ### beginReceive -/

@[simp] theorem beginReceive_cfg : (beginReceive s).cfg = s.cfg := rfl
@[simp] theorem beginReceive_status : (beginReceive s).status = s.status := rfl
@[simp] theorem beginReceive_operands : (beginReceive s).operands = s.operands := rfl
@[simp] theorem beginReceive_result : (beginReceive s).result = s.result := rfl
@[simp] theorem beginReceive_crcAcc : (beginReceive s).crcAcc = s.crcAcc := rfl
@[simp] theorem beginReceive_txCrc : (beginReceive s).txCrc = s.txCrc := rfl
@[simp] theorem beginReceive_crcCalc : (beginReceive s).crcCalc = s.crcCalc := rfl
@[simp] theorem beginReceive_crcRecv : (beginReceive s).crcRecv = s.crcRecv := rfl
@[simp] theorem beginReceive_state : (beginReceive s).state = .rxHeader := rfl
@[simp] theorem beginReceive_de : (beginReceive s).de = s.de := rfl
@[simp] theorem beginReceive_latched : (beginReceive s).latched = s.latched := rfl
@[simp] theorem beginReceive_req : (beginReceive s).req = s.req := rfl
@[simp] theorem beginReceive_txIdx : (beginReceive s).txIdx = s.txIdx := rfl
@[simp] theorem beginReceive_rx : (beginReceive s).rx = s.rx := rfl
@[simp] theorem beginReceive_rxLen : (beginReceive s).rxLen = s.rxLen := rfl
@[simp] theorem beginReceive_total : (beginReceive s).total = s.total := rfl
@[simp] theorem beginReceive_tmr : (beginReceive s).tmr = s.tmr := rfl
@[simp] theorem beginReceive_elapsed : (beginReceive s).elapsed = s.elapsed := rfl
@[simp] theorem beginReceive_inq : (beginReceive s).inq = s.inq := rfl
@[simp] theorem beginReceive_txReady : (beginReceive s).txReady = s.txReady := rfl
@[simp] theorem beginReceive_sent : (beginReceive s).sent = s.sent := rfl
@[simp] theorem beginReceive_readData : (beginReceive s).readData = s.readData := rfl
@[simp] theorem beginReceive_agenda : (beginReceive s).agenda = s.agenda := rfl

/-! ### recordCrcs -/

@[simp] theorem recordCrcs_cfg : (recordCrcs s).cfg = s.cfg := rfl
@[simp] theorem recordCrcs_status : (recordCrcs s).status = s.status := rfl
@[simp] theorem recordCrcs_operands : (recordCrcs s).operands = s.operands := rfl
@[simp] theorem recordCrcs_result : (recordCrcs s).result = s.result := rfl
@[simp] theorem recordCrcs_crcAcc : (recordCrcs s).crcAcc = s.crcAcc := rfl
@[simp] theorem recordCrcs_txCrc : (recordCrcs s).txCrc = s.txCrc := rfl
@[simp] theorem recordCrcs_crcCalc : (recordCrcs s).crcCalc = crc16 (rxBytes s.rx (s.total.toNat - crcLen)) := rfl
@[simp] theorem recordCrcs_crcRecv : (recordCrcs s).crcRecv = pair (Memory.read s.rx (s.total.toNat - 1)) (Memory.read s.rx (s.total.toNat - 2)) := rfl
@[simp] theorem recordCrcs_state : (recordCrcs s).state = s.state := rfl
@[simp] theorem recordCrcs_de : (recordCrcs s).de = s.de := rfl
@[simp] theorem recordCrcs_latched : (recordCrcs s).latched = s.latched := rfl
@[simp] theorem recordCrcs_req : (recordCrcs s).req = s.req := rfl
@[simp] theorem recordCrcs_txIdx : (recordCrcs s).txIdx = s.txIdx := rfl
@[simp] theorem recordCrcs_rx : (recordCrcs s).rx = s.rx := rfl
@[simp] theorem recordCrcs_rxLen : (recordCrcs s).rxLen = s.rxLen := rfl
@[simp] theorem recordCrcs_total : (recordCrcs s).total = s.total := rfl
@[simp] theorem recordCrcs_tmr : (recordCrcs s).tmr = s.tmr := rfl
@[simp] theorem recordCrcs_elapsed : (recordCrcs s).elapsed = s.elapsed := rfl
@[simp] theorem recordCrcs_inq : (recordCrcs s).inq = s.inq := rfl
@[simp] theorem recordCrcs_txReady : (recordCrcs s).txReady = s.txReady := rfl
@[simp] theorem recordCrcs_sent : (recordCrcs s).sent = s.sent := rfl
@[simp] theorem recordCrcs_readData : (recordCrcs s).readData = s.readData := rfl
@[simp] theorem recordCrcs_agenda : (recordCrcs s).agenda = s.agenda := rfl

/-! ### tickTmr -/

@[simp] theorem tickTmr_cfg : (tickTmr s).cfg = s.cfg := rfl
@[simp] theorem tickTmr_status : (tickTmr s).status = s.status := rfl
@[simp] theorem tickTmr_operands : (tickTmr s).operands = s.operands := rfl
@[simp] theorem tickTmr_result : (tickTmr s).result = s.result := rfl
@[simp] theorem tickTmr_crcAcc : (tickTmr s).crcAcc = s.crcAcc := rfl
@[simp] theorem tickTmr_txCrc : (tickTmr s).txCrc = s.txCrc := rfl
@[simp] theorem tickTmr_crcCalc : (tickTmr s).crcCalc = s.crcCalc := rfl
@[simp] theorem tickTmr_crcRecv : (tickTmr s).crcRecv = s.crcRecv := rfl
@[simp] theorem tickTmr_state : (tickTmr s).state = s.state := rfl
@[simp] theorem tickTmr_de : (tickTmr s).de = s.de := rfl
@[simp] theorem tickTmr_latched : (tickTmr s).latched = s.latched := rfl
@[simp] theorem tickTmr_req : (tickTmr s).req = s.req := rfl
@[simp] theorem tickTmr_txIdx : (tickTmr s).txIdx = s.txIdx := rfl
@[simp] theorem tickTmr_rx : (tickTmr s).rx = s.rx := rfl
@[simp] theorem tickTmr_rxLen : (tickTmr s).rxLen = s.rxLen := rfl
@[simp] theorem tickTmr_total : (tickTmr s).total = s.total := rfl
@[simp] theorem tickTmr_tmr : (tickTmr s).tmr = min (s.tmr + 1) (tmrLimit s.cfg) := rfl
@[simp] theorem tickTmr_elapsed : (tickTmr s).elapsed = s.elapsed := rfl
@[simp] theorem tickTmr_inq : (tickTmr s).inq = s.inq := rfl
@[simp] theorem tickTmr_txReady : (tickTmr s).txReady = s.txReady := rfl
@[simp] theorem tickTmr_sent : (tickTmr s).sent = s.sent := rfl
@[simp] theorem tickTmr_readData : (tickTmr s).readData = s.readData := rfl
@[simp] theorem tickTmr_agenda : (tickTmr s).agenda = s.agenda := rfl

/-! ### tickElapsed -/

@[simp] theorem tickElapsed_cfg : (tickElapsed s).cfg = s.cfg := rfl
@[simp] theorem tickElapsed_status : (tickElapsed s).status = s.status := rfl
@[simp] theorem tickElapsed_operands : (tickElapsed s).operands = s.operands := rfl
@[simp] theorem tickElapsed_result : (tickElapsed s).result = s.result := rfl
@[simp] theorem tickElapsed_crcAcc : (tickElapsed s).crcAcc = s.crcAcc := rfl
@[simp] theorem tickElapsed_txCrc : (tickElapsed s).txCrc = s.txCrc := rfl
@[simp] theorem tickElapsed_crcCalc : (tickElapsed s).crcCalc = s.crcCalc := rfl
@[simp] theorem tickElapsed_crcRecv : (tickElapsed s).crcRecv = s.crcRecv := rfl
@[simp] theorem tickElapsed_state : (tickElapsed s).state = s.state := rfl
@[simp] theorem tickElapsed_de : (tickElapsed s).de = s.de := rfl
@[simp] theorem tickElapsed_latched : (tickElapsed s).latched = s.latched := rfl
@[simp] theorem tickElapsed_req : (tickElapsed s).req = s.req := rfl
@[simp] theorem tickElapsed_txIdx : (tickElapsed s).txIdx = s.txIdx := rfl
@[simp] theorem tickElapsed_rx : (tickElapsed s).rx = s.rx := rfl
@[simp] theorem tickElapsed_rxLen : (tickElapsed s).rxLen = s.rxLen := rfl
@[simp] theorem tickElapsed_total : (tickElapsed s).total = s.total := rfl
@[simp] theorem tickElapsed_tmr : (tickElapsed s).tmr = s.tmr := rfl
@[simp] theorem tickElapsed_elapsed : (tickElapsed s).elapsed = min (s.elapsed + 1) tRespMs := rfl
@[simp] theorem tickElapsed_inq : (tickElapsed s).inq = s.inq := rfl
@[simp] theorem tickElapsed_txReady : (tickElapsed s).txReady = s.txReady := rfl
@[simp] theorem tickElapsed_sent : (tickElapsed s).sent = s.sent := rfl
@[simp] theorem tickElapsed_readData : (tickElapsed s).readData = s.readData := rfl
@[simp] theorem tickElapsed_agenda : (tickElapsed s).agenda = s.agenda := rfl

end Sys2Proof.Machine
end

