-- ==== Sys2Proof/Laws/Step.lean ====
section
/-! SUPPORT. Everything a step can do, said once: one spec lemma for each shared operation that can stop, one inversion lemma
for an internal step and one for a step. -/

namespace Sys2Proof.Machine

/-- The state after the parser has stored the queue's oldest byte (R173, R178). -/
def storedByte (b : Byte) (rest : List Byte) (s : State) : State :=
  { s with inq := rest, rx := Memory.write s.rx s.rxLen.toNat b, rxLen := s.rxLen + 1 }

@[simp] theorem storedByte_cfg (b : Byte) (rest : List Byte) (s : State) : (storedByte b rest s).cfg = s.cfg := rfl
@[simp] theorem storedByte_status (b : Byte) (rest : List Byte) (s : State) : (storedByte b rest s).status = s.status := rfl
@[simp] theorem storedByte_operands (b : Byte) (rest : List Byte) (s : State) : (storedByte b rest s).operands = s.operands := rfl
@[simp] theorem storedByte_result (b : Byte) (rest : List Byte) (s : State) : (storedByte b rest s).result = s.result := rfl
@[simp] theorem storedByte_crcAcc (b : Byte) (rest : List Byte) (s : State) : (storedByte b rest s).crcAcc = s.crcAcc := rfl
@[simp] theorem storedByte_txCrc (b : Byte) (rest : List Byte) (s : State) : (storedByte b rest s).txCrc = s.txCrc := rfl
@[simp] theorem storedByte_crcCalc (b : Byte) (rest : List Byte) (s : State) : (storedByte b rest s).crcCalc = s.crcCalc := rfl
@[simp] theorem storedByte_crcRecv (b : Byte) (rest : List Byte) (s : State) : (storedByte b rest s).crcRecv = s.crcRecv := rfl
@[simp] theorem storedByte_state (b : Byte) (rest : List Byte) (s : State) : (storedByte b rest s).state = s.state := rfl
@[simp] theorem storedByte_de (b : Byte) (rest : List Byte) (s : State) : (storedByte b rest s).de = s.de := rfl
@[simp] theorem storedByte_latched (b : Byte) (rest : List Byte) (s : State) : (storedByte b rest s).latched = s.latched := rfl
@[simp] theorem storedByte_req (b : Byte) (rest : List Byte) (s : State) : (storedByte b rest s).req = s.req := rfl
@[simp] theorem storedByte_txIdx (b : Byte) (rest : List Byte) (s : State) : (storedByte b rest s).txIdx = s.txIdx := rfl
@[simp] theorem storedByte_total (b : Byte) (rest : List Byte) (s : State) : (storedByte b rest s).total = s.total := rfl
@[simp] theorem storedByte_tmr (b : Byte) (rest : List Byte) (s : State) : (storedByte b rest s).tmr = s.tmr := rfl
@[simp] theorem storedByte_elapsed (b : Byte) (rest : List Byte) (s : State) : (storedByte b rest s).elapsed = s.elapsed := rfl
@[simp] theorem storedByte_txReady (b : Byte) (rest : List Byte) (s : State) : (storedByte b rest s).txReady = s.txReady := rfl
@[simp] theorem storedByte_sent (b : Byte) (rest : List Byte) (s : State) : (storedByte b rest s).sent = s.sent := rfl
@[simp] theorem storedByte_readData (b : Byte) (rest : List Byte) (s : State) : (storedByte b rest s).readData = s.readData := rfl
@[simp] theorem storedByte_agenda (b : Byte) (rest : List Byte) (s : State) : (storedByte b rest s).agenda = s.agenda := rfl
@[simp] theorem storedByte_inq (b : Byte) (rest : List Byte) (s : State) : (storedByte b rest s).inq = rest := rfl
@[simp] theorem storedByte_rxLen (b : Byte) (rest : List Byte) (s : State) : (storedByte b rest s).rxLen = s.rxLen + 1 := rfl
@[simp] theorem storedByte_rx (b : Byte) (rest : List Byte) (s : State) :
    (storedByte b rest s).rx = Memory.write s.rx s.rxLen.toNat b := rfl

/-- RX_CAP lies in 5..260 (R10). -/
theorem Config.rxCap_range (c : Config) : 5 ≤ c.rxCap ∧ c.rxCap ≤ 260 := by
  have := c.rxRoom.isLt
  simp only [Sys2Proof.Config.rxCap]
  omega

/-- A store inside the buffer counts up without wrapping. -/
theorem rxLen_succ {s : State} (h : s.rxLen.toNat < s.cfg.rxCap) : (s.rxLen + 1).toNat = s.rxLen.toNat + 1 := by
  have := (Config.rxCap_range s.cfg).2
  rw [BitVec.toNat_add]
  simp
  omega

/-- Everything `storeByte` can do. -/
theorem storeByte_eq (b : Byte) (s : State) :
    (s.rxLen.toNat < s.cfg.rxCap ∧
      storeByte b s = .next { s with rx := Memory.write s.rx s.rxLen.toNat b, rxLen := s.rxLen + 1 }) ∨
    (s.cfg.rxCap ≤ s.rxLen.toNat ∧ storeByte b s = .fault .rxStoreOutOfBounds) := by
  unfold storeByte
  split
  · next h => exact .inl ⟨h, rfl⟩
  · next h => exact .inr ⟨by omega, rfl⟩

/-- A pop whose store is inside the buffer goes on with the stored state. -/
theorem storeThen_in_bounds {b : Byte} {rest : List Byte} {s : State} (h : s.rxLen.toNat < s.cfg.rxCap)
    (k : State → Host.Outcome State Fault Refusal) :
    storeThen b { s with inq := rest } k = k (storedByte b rest s) := by
  simp [storeThen, storeByte, h, storedByte]

/-- A pop that answers a next state stored inside the buffer. -/
theorem storeThen_next {b : Byte} {rest : List Byte} {s t : State} {k : State → Host.Outcome State Fault Refusal}
    (h : storeThen b { s with inq := rest } k = .next t) :
    s.rxLen.toNat < s.cfg.rxCap ∧ k (storedByte b rest s) = .next t := by
  by_cases hb : s.rxLen.toNat < s.cfg.rxCap
  · rw [storeThen_in_bounds hb] at h
    exact ⟨hb, h⟩
  · simp [storeThen, storeByte, hb] at h

/-- Every instruction answers a next state, in every state. -/
theorem exec_answers_next (i : Instr) (s : State) : ∃ t, exec i s = .next t := by
  cases i with
  | crcInit => exact ⟨_, rfl⟩
  | crcByte data => exact ⟨_, rfl⟩
  | readHolding => simp only [exec, execReadHolding]; split <;> exact ⟨_, rfl⟩
  | illegalCmd op => exact ⟨_, rfl⟩
  | req8 slaveId startAddr regCount => exact ⟨_, rfl⟩
  | rspn slaveId fc byteCount => simp only [exec, execRspn]; split <;> exact ⟨_, rfl⟩
  | rspx slaveId fc exceptionCode => exact ⟨_, rfl⟩

/-- The examination of the header in the receive buffer: the three ends of R174, R175 and R176. -/
theorem examineHeader_eq (s : State) :
    examineHeader s =
      if isException (Memory.read s.rx 1) then .next (finish .protocolException (Memory.read s.rx 2) 0 s)
      else if s.cfg.rxCap < totalLength (Memory.read s.rx 2) then .next (finish .responseTooLarge 0 0 s)
      else .next { s with total := BitVec.ofNat 9 (totalLength (Memory.read s.rx 2)), state := .rxBody } := by
  unfold examineHeader decodeHeader
  split
  · rfl
  · rfl

/-- The rows of R192 that are internal steps of the controller, with the state each leads to. -/
inductive InternalStep (s : State) : State → Prop
  | beginTransmit : s.state = .preDelay → s.cfg.tPreMs ≤ s.tmr → InternalStep s (beginTransmit s)
  | push : s.state = .tx → s.txIdx.toNat < reqLen → s.txReady = true → InternalStep s (pushByte s)
  | beginReceive : s.state = .postDelay → s.cfg.tPostMs ≤ s.tmr → InternalStep s (beginReceive s)
  | headerTimeout : s.state = .rxHeader → tRespMs ≤ s.elapsed → InternalStep s (finish .headerTimeout 0 0 s)
  | headerByte (b rest) : s.state = .rxHeader → s.elapsed < tRespMs → s.inq = b :: rest →
      s.rxLen.toNat < s.cfg.rxCap → (s.rxLen + 1).toNat ≠ hdrLen → InternalStep s (storedByte b rest s)
  | exception (b rest) : s.state = .rxHeader → s.elapsed < tRespMs → s.inq = b :: rest →
      s.rxLen.toNat < s.cfg.rxCap → (s.rxLen + 1).toNat = hdrLen →
      isException (Memory.read (storedByte b rest s).rx 1) = true →
      InternalStep s
        (finish .protocolException (Memory.read (storedByte b rest s).rx 2) 0 (storedByte b rest s))
  | tooLarge (b rest) : s.state = .rxHeader → s.elapsed < tRespMs → s.inq = b :: rest →
      s.rxLen.toNat < s.cfg.rxCap → (s.rxLen + 1).toNat = hdrLen →
      isException (Memory.read (storedByte b rest s).rx 1) = false →
      s.cfg.rxCap < totalLength (Memory.read (storedByte b rest s).rx 2) →
      InternalStep s (finish .responseTooLarge 0 0 (storedByte b rest s))
  | acceptHeader (b rest) : s.state = .rxHeader → s.elapsed < tRespMs → s.inq = b :: rest →
      s.rxLen.toNat < s.cfg.rxCap → (s.rxLen + 1).toNat = hdrLen →
      isException (Memory.read (storedByte b rest s).rx 1) = false →
      totalLength (Memory.read (storedByte b rest s).rx 2) ≤ s.cfg.rxCap →
      InternalStep s
        { storedByte b rest s with
          total := BitVec.ofNat 9 (totalLength (Memory.read (storedByte b rest s).rx 2)), state := .rxBody }
  | bodyTimeout : s.state = .rxBody → tRespMs ≤ s.elapsed → InternalStep s (finish .bodyTimeout 0 0 s)
  | bodyByte (b rest) : s.state = .rxBody → s.elapsed < tRespMs → s.inq = b :: rest →
      s.rxLen.toNat < s.cfg.rxCap → s.rxLen + 1 ≠ s.total → InternalStep s (storedByte b rest s)
  | lastByte (b rest) : s.state = .rxBody → s.elapsed < tRespMs → s.inq = b :: rest →
      s.rxLen.toNat < s.cfg.rxCap → s.rxLen + 1 = s.total → InternalStep s (checkFrame (storedByte b rest s))

/-- Inversion of an internal step: where one is enabled, it is a row of the table. -/
theorem internalStep_cases {s t : State} (he : internalEnabled s = true) (h : internalStep s = .next t) :
    InternalStep s t := by
  unfold internalStep at h
  rw [if_pos he] at h
  unfold internalEnabled at he
  cases hst : s.state with
  | idle => simp [hst] at he
  | preDelay =>
    simp only [hst, decide_eq_true_eq] at he h
    cases h
    exact .beginTransmit hst he
  | tx =>
    simp only [hst, Bool.and_eq_true, decide_eq_true_eq] at he h
    cases h
    exact .push hst he.1 he.2
  | postDelay =>
    simp only [hst, decide_eq_true_eq] at he h
    cases h
    exact .beginReceive hst he
  | rxHeader =>
    simp only [hst] at h
    split at h
    · next hT => cases h; exact .headerTimeout hst hT
    · next hT =>
      have hT : s.elapsed < tRespMs := by omega
      split at h
      · next hq => simp [hst, hq] at he; omega
      · next b rest hq =>
        rw [← hst] at h
        obtain ⟨hb, h⟩ := storeThen_next h
        have hrx : (storedByte b rest s).rxLen = s.rxLen + 1 := rfl
        simp only [afterHeaderByte, hrx] at h
        split at h
        · next h3 =>
          rw [examineHeader_eq] at h
          split at h
          · next hx => cases h; exact .exception b rest hst hT hq hb h3 hx
          · next hx =>
            have hx := Bool.eq_false_iff.2 hx
            split at h
            · next hl => cases h; exact .tooLarge b rest hst hT hq hb h3 hx hl
            · next hl => cases h; exact .acceptHeader b rest hst hT hq hb h3 hx (Nat.not_lt.1 hl)
        · next h3 => cases h; exact .headerByte b rest hst hT hq hb h3
  | rxBody =>
    simp only [hst] at h
    split at h
    · next hT => cases h; exact .bodyTimeout hst hT
    · next hT =>
      have hT : s.elapsed < tRespMs := by omega
      split at h
      · next hq => simp [hst, hq] at he; omega
      · next b rest hq =>
        rw [← hst] at h
        obtain ⟨hb, h⟩ := storeThen_next h
        have hrx : (storedByte b rest s).rxLen = s.rxLen + 1 := rfl
        have htot : (storedByte b rest s).total = s.total := rfl
        simp only [afterBodyByte, hrx, htot] at h
        split at h
        · next hl => cases h; exact .lastByte b rest hst hT hq hb hl
        · next hl => cases h; exact .bodyByte b rest hst hT hq hb hl

/-- An internal step that is not enabled changes nothing. -/
theorem internalStep_disabled {s : State} (h : internalEnabled s = false) : internalStep s = .next s := by
  simp [internalStep, h]

/-- What a host write can do (R76). -/
inductive HostWriteStep (width : AccessWidth) (off : Offset) (v : Word) (s : State) : State → Prop
  | command (t) : regReached width off = some .cmd → exec (decodeCmd v) s = .next t → HostWriteStep width off v s t
  | operand (o : Operands) : regReached width off ≠ some .cmd →
      HostWriteStep width off v s { s with operands := o }

/-- Inversion of a host write: it runs a command, or at most an operand register changes. -/
theorem hostWrite_cases {width : AccessWidth} {off : Offset} {v : Word} {s t : State}
    (h : hostWrite width off v s = .next t) : HostWriteStep width off v s t := by
  unfold hostWrite at h
  split at h
  · next e => exact .command t e h
  all_goals next e => cases h; exact .operand _ (by simp [e])

/-- The six command results, of the four commands a word can encode (R104, R149, R150, R161). -/
inductive CommandStep (s : State) : State → Prop
  | setCrc (c : Half) : CommandStep s (setCrcAcc c s)
  | rejected : CommandStep s (rejectCommand s)
  | accepted : s.status.busy = false → CommandStep s (acceptTransaction s)

/-- Inversion of a command word. -/
theorem command_cases {w : Word} {s t : State} (h : exec (decodeCmd w) s = .next t) : CommandStep s t := by
  unfold decodeCmd at h
  split at h
  · cases h; exact .setCrc _
  · split at h
    · cases h; exact .setCrc _
    · split at h
      · simp only [exec, execReadHolding] at h
        split at h
        · cases h; exact .rejected
        · next hb => cases h; exact .accepted (by simpa using hb)
      · cases h; exact .rejected

/-- Everything a step can do. `s` is the state before it; where the step takes a label off the agenda, the change is made to
the state with the rest of the agenda. -/
inductive StepCase (s : State) : State → Prop
  /-- A Tick waits, or the agenda is empty: the controller's step. -/
  | urgent (t) : InternalStep s t → StepCase s t
  /-- Nothing is on the agenda: time passes. -/
  | idleTick : s.agenda = [] → internalEnabled s = false → StepCase s (tickTimers s)
  | tick (rest) : s.agenda = .tick :: rest → internalEnabled s = false →
      StepCase s (tickTimers { s with agenda := rest })
  | internal (rest t) : s.agenda = .internal :: rest → InternalStep { s with agenda := rest } t → StepCase s t
  | internalNone (rest) : s.agenda = .internal :: rest → internalEnabled s = false →
      StepCase s { s with agenda := rest }
  | command (width off w rest t) : s.agenda = .hostWrite width off w :: rest →
      regReached width off = some .cmd → exec (decodeCmd w) { s with agenda := rest } = .next t → StepCase s t
  | operand (width off v rest) (o : Operands) : s.agenda = .hostWrite width off v :: rest →
      regReached width off ≠ some .cmd → StepCase s { s with agenda := rest, operands := o }
  | read (width off rest) : s.agenda = .hostRead width off :: rest →
      StepCase s { s with agenda := rest, readData := hostRead width off { s with agenda := rest } }
  | arrive (b rest) : s.agenda = .rxArrive b :: rest → StepCase s { s with agenda := rest, inq := s.inq ++ [b] }
  | ready (r rest) : s.agenda = .txReady r :: rest → StepCase s { s with agenda := rest, txReady := r }
  | complete (rest) : s.agenda = .txComplete :: rest → txCompleteEnabled s = true →
      StepCase s (endTransmit { s with agenda := rest })
  | completeNone (rest) : s.agenda = .txComplete :: rest → txCompleteEnabled s = false →
      StepCase s { s with agenda := rest }
  | reset (rest) : s.agenda = .reset :: rest → StepCase s (resetBlock { s with agenda := rest })

/-- Inversion of a step. -/
theorem step_cases {s t : State} (h : step s = .next t) : StepCase s t := by
  unfold step nextStep at h
  split at h
  · next ha =>
    unfold runAlone at h
    split at h
    · next he => exact .urgent t (internalStep_cases he h)
    · next he => cases h; exact .idleTick ha (by simpa using he)
  · next l rest ha =>
    split at h
    · next he =>
      simp only [Bool.and_eq_true] at he
      exact .urgent t (internalStep_cases he.2 h)
    · next hn =>
      cases l with
      | hostWrite width off v =>
        cases hostWrite_cases h with
        | command _ hr hx => exact .command width off v rest t ha hr hx
        | operand o hr => exact .operand width off v rest o ha hr
      | hostRead width off => cases h; exact .read width off rest ha
      | rxArrive b => cases h; exact .arrive b rest ha
      | txReady r => cases h; exact .ready r rest ha
      | txComplete =>
        simp only [runLabel] at h
        split at h
        · next hc => cases h; exact .complete rest ha hc
        · next hc => cases h; exact .completeNone rest ha (Bool.eq_false_iff.2 hc)
      | internal =>
        by_cases he : internalEnabled s = true
        · exact .internal rest t ha (internalStep_cases (s := { s with agenda := rest }) he h)
        · have he : internalEnabled s = false := by simpa using he
          rw [runLabel, internalStep_disabled (s := { s with agenda := rest }) he] at h
          cases h
          exact .internalNone rest ha he
      | tick =>
        cases h
        exact .tick rest ha (by simpa using hn)
      | reset => cases h; exact .reset rest ha

end Sys2Proof.Machine
end

