-- ==== Sys2Proof/Laws/Run.lean ====
section
/-! SUPPORT. Runs of several steps, one step at a time. -/

namespace Sys2Proof.Machine

@[simp] theorem runSteps_zero (s : State) : runSteps 0 s = .next s := rfl

/-- A run whose first step answers a next state goes on from it. -/
theorem runSteps_succ {s t : State} (h : step s = .next t) (n : Nat) : runSteps (n + 1) s = runSteps n t := by
  simp [runSteps, h]

@[simp] theorem runSteps_one (s : State) : runSteps 1 s = step s := by
  simp only [runSteps]
  split <;> simp_all

/-- Two runs in a row are one. -/
theorem runSteps_add {s t : State} {m : Nat} (h : runSteps m s = .next t) (n : Nat) :
    runSteps (m + n) s = runSteps n t := by
  induction m generalizing s with
  | zero => rw [Nat.zero_add]; cases h; rfl
  | succ m ih =>
    cases hu : step s with
    | next u =>
      rw [runSteps_succ hu] at h
      rw [Nat.succ_add, runSteps_succ hu]
      exact ih h
    | fault r => simp [runSteps, hu] at h
    | refused r => simp [runSteps, hu] at h

/-- `runSteps` is the host's run of this machine. -/
theorem runSteps_eq_core_run (n : Nat) : ∀ s : State, runSteps n s = Host.Core.run core n s := by
  induction n with
  | zero => intro s; rfl
  | succ n ih =>
    intro s
    have e := Host.Core.run.eq_2 core s n
    refine Eq.trans ?_ e.symm
    cases hu : step s with
    | next u =>
      have hu' : core.step s = .next u := hu
      rw [runSteps_succ hu, hu', ih]
    | fault r =>
      have hu' : core.step s = .fault r := hu
      simp only [runSteps, hu, hu']
      rfl
    | refused r =>
      have hu' : core.step s = .refused r := hu
      simp only [runSteps, hu, hu']
      rfl

/-- A step with an internal label first, where one is enabled, is the controller's step with the rest of the agenda. -/
theorem step_internal {s : State} {rest : List Label} (h : s.agenda = .internal :: rest) :
    step s = internalStep { s with agenda := rest } := by
  simp [step, nextStep, h, runLabel]

/-- A step on an empty agenda where an internal step is enabled is that step. -/
theorem step_alone {s : State} (h : s.agenda = []) (he : internalEnabled s = true) : step s = internalStep s := by
  simp [step, nextStep, h, runAlone, he]

/-- A Tick that waits: the step is the controller's. -/
theorem step_tick_waits {s : State} {rest : List Label} (h : s.agenda = .tick :: rest) (he : internalEnabled s = true) :
    step s = internalStep s := by
  simp [step, nextStep, h, he]

/-- A Tick that is enabled. -/
theorem step_tick {s : State} {rest : List Label} (h : s.agenda = .tick :: rest) (he : internalEnabled s = false) :
    step s = .next (tickTimers { s with agenda := rest }) := by
  simp [step, nextStep, h, he, runLabel]

/-- A step that takes a Tick is that Tick, off the agenda where it stands there. -/
theorem step_takesTick {s : State} (h : takesTick s = true) :
    step s = .next (tickTimers { s with agenda := s.agenda.tail }) := by
  simp only [takesTick, Bool.and_eq_true, Bool.not_eq_true', Bool.or_eq_true, decide_eq_true_eq] at h
  obtain ⟨he, ha⟩ := h
  cases hs : s.agenda with
  | nil =>
    have same : { s with agenda := [].tail } = s := by rw [List.tail_nil, ← hs]
    rw [same]
    simp [step, nextStep, hs, runAlone, he]
  | cons l rest =>
    have hl : l = .tick := by simpa [hs] using ha
    subst hl
    exact step_tick hs he

/-- The Ticks left in POST_DELAY. -/
theorem ticksLeft_postDelay {s : State} (h : s.state = .postDelay) :
    ticksLeft s = max (s.cfg.tPostMs - s.tmr) (tRespMs - s.elapsed) := by
  simp [ticksLeft, h]

/-- The Ticks left once reception has begun. -/
theorem ticksLeft_reception {s : State} (h : s.state = .rxHeader ∨ s.state = .rxBody) :
    ticksLeft s = tRespMs - s.elapsed := by
  rcases h with h | h <;> simp [ticksLeft, h]

/-- A host write is next. -/
theorem step_hostWrite {s : State} {width : AccessWidth} {off : Offset} {v : Word} {rest : List Label}
    (h : s.agenda = .hostWrite width off v :: rest) : step s = hostWrite width off v { s with agenda := rest } := by
  simp [step, nextStep, h, runLabel]

/-- The command register is the one at offset 0, reached by a whole word. -/
theorem regReached_cmd {width : AccessWidth} {off : Offset} (h : regReached width off = some .cmd) :
    width = .word ∧ off = 0x000 := by
  cases width with
  | byte => simp [regReached] at h
  | half => simp [regReached] at h
  | word =>
    refine ⟨rfl, ?_⟩
    simp only [regReached, regAt] at h
    by_cases h0 : off = 0x000
    · exact h0
    · simp only [if_neg h0] at h
      repeat' split at h
      all_goals simp at h

end Sys2Proof.Machine
end

