-- ==== Sys2Proof/Tests/Slice0.lean ====
section
/-! SUPPORT. The model's own tests. Expected values are those of spec/95_test_vectors.md or of the rule a test names. The second
half shows, for each obligation with hypotheses, a state and operands that meet them. -/

namespace Sys2Proof.Tests

open Sys2Proof Sys2Proof.Machine

/-- One field of the state a step leads to. -/
def sees {α : Type} (f : State → α) : Host.Outcome State Fault Refusal → Option α
  | .next t => some (f t)
  | .fault _ => none
  | .refused _ => none

/-- The reset state of a block with RX_CAP = 260, T_PRE_MS = 2 and T_POST_MS = 10. -/
def base : State := { State.reset with cfg := ⟨255, 2, 10⟩ }

/-- `base` with the labels `l` to come. -/
def next (l : List Label) : State := { base with agenda := l }

/-- A transaction of the request `01 03 00 48 00 09` in flight, its eight bytes pushed, in STATE `st`. -/
def flight (st : CtrlState) (l : List Label) : State :=
  { base with
    status := acceptedFlags, operands := ⟨1, 0x0048, 9, 9⟩, latched := ⟨1, 0x0048, 9, 9⟩,
    req := requestFrame 1 0x0048 9, txCrc := requestCrc 1 0x0048 9, state := st, de := st = .tx, txIdx := 8, agenda := l }

/-- In flight, about to push byte `n` of the request. -/
def sending (n : BitVec 4) (l : List Label) : State := { flight .tx l with txIdx := n }

/-- In flight, with the bytes `01 03 00 20` of the response `01 03 00 20 F0` stored. -/
def reading (l : List Label) : State :=
  { flight .rxBody l with rx := [(0, 0x01), (1, 0x03), (3, 0x20)], rxLen := 4, total := 5 }

/-- After the success of `01 03 02 AB CD 06 E1` (V-P-15). -/
def succeeded (l : List Label) : State :=
  { flight .idle l with
    status := ⟨false, true, true, false⟩, result := ⟨.none, 0, 1⟩, crcCalc := 0xE106, crcRecv := 0xE106,
    rx := [(0, 0x01), (1, 0x03), (2, 0x02), (3, 0xAB), (4, 0xCD), (5, 0x06), (6, 0xE1)], rxLen := 7, total := 7 }

/-- After the exception response `01 83 02` (V-P-3). -/
def failed (l : List Label) : State :=
  { flight .idle l with
    status := ⟨false, true, false, false⟩, result := ⟨.protocolException, 2, 0⟩,
    rx := [(0, 0x01), (1, 0x83), (2, 0x02)], rxLen := 3, inq := [0xC0, 0xF1] }

/-! ### WellFormed: ill-formed terms are refused -/

theorem test_wf_refuses_legal_op_as_illegal :
    (Instr.illegalCmd 0x01).wf = false ∧ (Instr.illegalCmd 0x02).wf = false ∧ (Instr.illegalCmd 0x03).wf = false := by
  decide

theorem test_wf_admits_illegal_ops :
    (Instr.illegalCmd 0x00).wf = true ∧ (Instr.illegalCmd 0x04).wf = true ∧ (Instr.illegalCmd 0xFF).wf = true := by decide

theorem test_wf_frame_data_at_most_255 :
    (ResponseFrame.normal 1 3 (List.replicate 255 0) 0).wf = true ∧
      (ResponseFrame.normal 1 3 (List.replicate 256 0) 0).wf = false := by decide +kernel

/-! ### Decode: words written out from R100, R101, R105, R107, R108 -/

theorem test_decode_crc_init : decode (.cmd 0b00000000000000000000000000000001#32) = .ok .crcInit := by decide
theorem test_decode_crc_byte : decode (.cmd 0b00000000000000000100100000000010#32) = .ok (.crcByte 0x48) := by decide
theorem test_decode_read_holding : decode (.cmd 0b11111111111111111111111100000011#32) = .ok .readHolding := by decide
theorem test_decode_illegal : decode (.cmd 0b00000000000000010000000011111111#32) = .ok (.illegalCmd 0xFF) := by decide
theorem test_decode_req8 :
    decode (.sent [0x01, 0x03, 0x00, 0x48, 0x00, 0x09, 0x05, 0xDA]) = .ok (.req8 1 0x0048 9) := by decide +kernel
theorem test_decode_rspn : decode (.received [0x05, 0b00000011, 0x02]) = .ok (.rspn 5 3 2) := by decide
theorem test_decode_rspx : decode (.received [0x01, 0b10000011, 0x0B]) = .ok (.rspx 1 3 0x0B) := by decide

theorem test_decode_refuses_by_name :
    decode (.sent [0x01, 0x04, 0x00, 0x48, 0x00, 0x09, 0x05, 0xDA]) = .error .notReadHolding ∧
      decode (.sent [0x01, 0x03, 0x00, 0x48, 0x00, 0x09, 0xDA, 0x05]) = .error .wrongRequestCrc ∧
      decode (.sent [0x01, 0x03]) = .error .wrongLength ∧ decode (.received [0x01, 0x83]) = .error .headerIncomplete := by
  decide +kernel

theorem test_decode_frame :
    decodeFrame [0x01, 0x03, 0x02, 0xAB, 0xCD, 0x06, 0xE1] = .ok (.normal 1 3 [0xAB, 0xCD] 0xE106) ∧
      decodeFrame [0x01, 0x83, 0x02, 0xC0, 0xF1] = .ok (.exception 1 3 2 0xF1C0) := by decide

theorem test_encode_command_words :
    encode .crcInit = .cmd 0x00000001 ∧ encode (.crcByte 0x48) = .cmd 0x00004802 ∧ encode .readHolding = .cmd 0x00000003 :=
  by decide

/-- The seven rows of spec/opcode_table.json, on their match words. -/
theorem test_table_words :
    decodeTableWord 32 0x00000001 = some .crcInit ∧ decodeTableWord 32 0x00000002 = some (.crcByte 0) ∧
      decodeTableWord 32 0x00000003 = some .readHolding ∧ decodeTableWord 32 0x00000000 = some (.illegalCmd 0) ∧
      decodeTableWord 8 0x03 = some (.req8 0 0 0) ∧ decodeTableWord 8 0x00 = some (.rspn 0 0 0) ∧
      decodeTableWord 8 0x80 = some (.rspx 0 0 0) := by decide +kernel

/-! ### The very next step after `withFetchWord` runs the row, from reset, whatever the open parameters are -/

theorem test_fetch_crc_byte : sees (·.crcAcc) (step (State.reset.withFetchWord 32 0x00000102)) = some 0x807E := by
  decide +kernel
theorem test_fetch_crc_init : sees (·.crcAcc) (step (State.reset.withFetchWord 32 0x00000001)) = some 0xFFFF := by
  decide +kernel
theorem test_fetch_read_holding : sees (·.state) (step (State.reset.withFetchWord 32 0x00000003)) = some .preDelay := by
  decide +kernel
theorem test_fetch_illegal : sees (·.status.cmdErr) (step (State.reset.withFetchWord 32 0)) = some true := by decide +kernel

/-- V-R-3: the request of zeros is `00 03 00 00 00 00 44 1B`. -/
theorem test_fetch_req8 : sees (·.req.toList) (step (State.reset.withFetchWord 8 0x03)) =
    some [0x00, 0x03, 0x00, 0x00, 0x00, 0x00, 0x44, 0x1B] := by decide +kernel
theorem test_fetch_rspn : sees (fun t => (t.state, t.total)) (step (State.reset.withFetchWord 8 0x00)) = some (.rxBody, 5) := by
  decide +kernel
theorem test_fetch_rspx :
    sees (fun t => (t.state, t.result)) (step (State.reset.withFetchWord 8 0x80)) =
      some (.idle, ⟨.protocolException, 0, 0⟩) := by decide +kernel

/-! ### One step of each instruction (spec/95_test_vectors.md) -/

theorem test_crc_init_clears_cmd_err :
    sees (fun t => (t.crcAcc, t.status.cmdErr))
      (exec .crcInit { base with crcAcc := 0x1234, status := ⟨false, true, false, true⟩ }) = some (0xFFFF, false) := by decide

/-- P1: CRC_ACC = 0x807E, then CRC_BYTE 0x03, gives 0x2140. -/
theorem test_crc_byte : sees (·.crcAcc) (exec (.crcByte 0x03) { base with crcAcc := 0x807E }) = some 0x2140 := by decide +kernel

/-- P1: the residue: CRC_ACC = 0xDA05 folded with 0x05 and 0xDA is 0. -/
theorem test_crc_residue : crcByte (crcByte 0xDA05 0x05) 0xDA = 0 := by decide +kernel

/-- P2: the frame and its CRC at acceptance; STATUS then reads 0x00000101. -/
theorem test_read_holding_accepts :
    sees (fun t => (t.txCrc, hostRead .word 0x004 t)) (exec .readHolding { base with operands := ⟨1, 0x0048, 9, 9⟩ }) =
      some (0xDA05, 0x00000101) := by decide +kernel

/-- P4: a READ_HOLDING while BUSY sets CMDERR; STATUS.BUSY and STATE stay. -/
theorem test_read_holding_rejected_while_busy :
    sees (hostRead .word 0x004) (exec .readHolding (flight .tx [])) = some 0x00000209 := by decide +kernel

/-- P1: opcode 7 on the idle block leaves STATUS = 0x00000008. -/
theorem test_illegal_command :
    sees (hostRead .word 0x004) (step (next [.hostWrite .word 0x000 0x00000007])) = some 0x00000008 := by decide +kernel

/-- P5: slave 2 is sent `02 03 00 48 00 09 05 E9`. -/
theorem test_req8 : sees (·.req.toList) (exec (.req8 2 0x0048 9) base) =
    some [0x02, 0x03, 0x00, 0x48, 0x00, 0x09, 0x05, 0xE9] := by decide +kernel

/-- V-P-8 and V-P-9: byte count 18 is too large for RX_CAP = 22 and fits RX_CAP = 23. -/
theorem test_rspn_size :
    sees (·.result.errKind) (exec (.rspn 1 3 0x12) { flight .rxHeader [] with cfg := ⟨17, 2, 10⟩ }) = some .responseTooLarge ∧
      sees (·.total) (exec (.rspn 1 3 0x12) { flight .rxHeader [] with cfg := ⟨18, 2, 10⟩ }) = some 23 := by decide +kernel

/-- V-P-4: RESULT = 0x00000B03. -/
theorem test_rspx : sees (hostRead .word 0x018) (exec (.rspx 1 3 0x0B) (flight .rxHeader [])) = some 0x00000B03 := by
  decide +kernel

/-- V-P-14: the last byte of `01 03 00 20 F0` completes with STATUS = 6 and RXCRC = 0xF020F020; one bit off, RESULT = 5. -/
theorem test_last_byte :
    sees (fun t => (hostRead .word 0x004 t, hostRead .word 0x024 t)) (step { reading [.internal] with inq := [0xF0] }) =
        some (0x00000006, 0xF020F020) ∧
      sees (hostRead .word 0x018) (step { reading [.internal] with inq := [0xF1] }) = some 0x00000005 := by decide +kernel

/-- V-P-15: what the host reads after the success. -/
theorem test_words_after_success :
    (hostRead .word 0x004 (succeeded []), hostRead .word 0x018 (succeeded []), hostRead .word 0x020 (succeeded []),
        hostRead .word 0x100 (succeeded []), hostRead .word 0x104 (succeeded []), hostRead .word 0x418 (succeeded [])) =
      (0x00000006, 0x00010000, 0x00070007, 0x0000ABCD, 0, 0xE1) := by decide +kernel

/-- V-T-5: at ELAPSED = 1000 no byte is popped. -/
theorem test_deadline :
    sees (fun t => (t.result.errKind, t.inq)) (step { flight .rxHeader [.internal] with elapsed := 1000, inq := [1] }) =
      some (.headerTimeout, [1]) := by decide +kernel

/-- V-R-1: CRC reads 0x0000FFFF after a Reset. -/
theorem test_reset : sees (hostRead .word 0x01C) (step { succeeded [.reset] with crcAcc := 7 }) = some 0x0000FFFF := by
  decide +kernel

/-! ### Witnesses: states that meet the hypotheses of the obligations -/

/-- A state of a transaction's life meets the invariant when its checks evaluate to true. -/
theorem blockInv_of (s : State) (hf : (s.status.busy = true ↔ s.state ≠ .idle) ∧ (s.de = true ↔ s.state = .tx) ∧
      ¬ (s.status.busy = true ∧ s.status.done = true) ∧
      (s.status.ok = true ↔ s.status.done = true ∧ s.result.errKind = .none))
    (hr : (s.status.done = false → s.result = Result.clear) ∧ (s.result.errKind ≠ .protocolException → s.result.excCode = 0) ∧
      (s.result.errKind ≠ .none → s.result.nRegs = 0) ∧ s.result.nRegs.toNat ≤ 127)
    (hb : Memory.wf s.rx = true ∧ (∀ c ∈ s.rx, c.1 < s.cfg.rxCap) ∧ s.rxLen.toNat ≤ s.cfg.rxCap ∧ s.total.toNat ≤ s.cfg.rxCap)
    (hp : PhaseAgrees s) (hq : RequestHeld s) (ht : s.tmr ≤ tmrLimit s.cfg ∧ s.elapsed ≤ tRespMs) : BlockInv s :=
  ⟨⟨hf.1, hf.2.1, hf.2.2.1, hf.2.2.2⟩, ⟨hr.1, hr.2.1, hr.2.2.1, hr.2.2.2⟩, ⟨hb.1, hb.2.1, hb.2.2.1, hb.2.2.2⟩, hp, hq, ht.1, ht.2⟩

/-- The agenda is no part of the invariant. -/
theorem blockInv_agenda {s : State} (h : BlockInv s) (l : List Label) : BlockInv { s with agenda := l } :=
  ⟨⟨h.flags.1, h.flags.2, h.flags.3, h.flags.4⟩, ⟨h.result.1, h.result.2, h.result.3, h.result.4⟩,
    ⟨h.buffer.1, h.buffer.2, h.buffer.3, h.buffer.4⟩, h.phase, h.request, ⟨h.timers.1, h.timers.2⟩⟩

theorem base_inv : BlockInv base :=
  blockInv_of _ (by decide +kernel) (by decide +kernel) (by decide +kernel) trivial (by unfold RequestHeld; decide +kernel)
    (by decide +kernel)

theorem sending_inv : BlockInv (sending 0 []) :=
  blockInv_of _ (by decide +kernel) (by decide +kernel) (by decide +kernel)
    ⟨by decide +kernel, by decide +kernel, by decide +kernel⟩ (by unfold RequestHeld; decide +kernel) (by decide +kernel)

theorem postDelay_inv : BlockInv (flight .postDelay []) :=
  blockInv_of _ (by decide +kernel) (by decide +kernel) (by decide +kernel)
    ⟨by decide +kernel, by decide +kernel, by decide +kernel⟩ (by unfold RequestHeld; decide +kernel) (by decide +kernel)

/-- The body is being read, at ELAPSED = 999, the boundary before the deadline, and the bytes `q` wait. -/
def atDeadline (q : List Byte) : State := { reading [] with elapsed := 999, inq := q }

theorem atDeadline_inv : BlockInv (atDeadline []) ∧ BlockInv (atDeadline [0xF0]) :=
  ⟨blockInv_of _ (by decide +kernel) (by decide +kernel) (by decide +kernel)
      ⟨by decide +kernel, by decide +kernel, by decide +kernel, by decide +kernel, by decide +kernel⟩
      (by unfold RequestHeld; decide +kernel) (by decide +kernel),
    blockInv_of _ (by decide +kernel) (by decide +kernel) (by decide +kernel)
      ⟨by decide +kernel, by decide +kernel, by decide +kernel, by decide +kernel, by decide +kernel⟩
      (by unfold RequestHeld; decide +kernel) (by decide +kernel)⟩

theorem succeeded_inv : BlockInv (succeeded []) :=
  blockInv_of _ (by decide +kernel) (by decide +kernel) (by decide +kernel) trivial (by unfold RequestHeld; decide +kernel)
    (by decide +kernel)

theorem failed_inv : BlockInv (failed []) :=
  blockInv_of _ (by decide +kernel) (by decide +kernel) (by decide +kernel) trivial (by unfold RequestHeld; decide +kernel)
    (by decide +kernel)

/-- A block whose T_POST_MS is not below T_RESP_MS, at its boundary, in POST_DELAY (V-T-9). -/
def longPost : State := { flight .postDelay [] with cfg := ⟨255, 2, 1000⟩ }

theorem longPost_inv : BlockInv longPost :=
  blockInv_of _ (by decide +kernel) (by decide +kernel) (by decide +kernel)
    ⟨by decide +kernel, by decide +kernel, by decide +kernel⟩ (by unfold RequestHeld; decide +kernel) (by decide +kernel)

theorem succeeded_outcome : OutcomeRecorded (succeeded []) :=
  fun _ => ⟨by decide +kernel, ⟨by decide +kernel, by decide +kernel, by decide +kernel⟩,
    ⟨by decide +kernel, by decide +kernel⟩, by decide +kernel, by decide +kernel⟩

theorem failed_outcome : OutcomeRecorded (failed []) :=
  fun _ => ⟨by decide +kernel, by decide +kernel, by decide +kernel, by decide +kernel⟩

/-- What `sees` shows of a step says that the step answers a next state. -/
theorem next_of_sees {α : Type} {f : State → α} {o : Host.Outcome State Fault Refusal} {a : α} (h : sees f o = some a) :
    ∃ t, o = .next t ∧ f t = a := by
  cases o with
  | next t => exact ⟨t, rfl, Option.some.inj h⟩
  | fault r => cases h
  | refused r => cases h

theorem witness_CrcCheckRejectsEveryOneByteChange :
    (0x01 : Byte) ≠ 0x00 ∧ crcOk ([] ++ 0x01 :: [0x03, 0x00, 0x20, 0xF0]) = true ∧
      (0xF0 : Byte) ≠ 0xF1 ∧ crcOk ([0x01, 0x03, 0x00, 0x20] ++ 0xF0 :: []) = true := by decide +kernel

/-- The shortest frame, of no message, on both sides of the equivalence. -/
theorem witness_CrcResidueIsZeroExactlyWhenCheckPasses :
    2 ≤ [(0xFF : Byte), 0xFF].length ∧ crcOk [0xFF, 0xFF] = true ∧ crc16 [0xFF, 0xFF] = 0 ∧ crcOk [0xFF, 0xFE] = false := by
  decide +kernel

theorem witness_CrcInitSetsSeed :
    (0xFFFFFF01 : Word).extractLsb' 0 8 = (0x01 : Byte) ∧
      (next [.hostWrite .word 0x000 0x00000001, .hostRead .word 0x01C]).agenda =
        .hostWrite .word 0x000 0x00000001 :: .hostRead .word 0x01C :: [] := ⟨by decide, rfl⟩

theorem witness_CrcByteFoldsIntoAccumulator :
    (next [.hostWrite .word 0x000 0x00000001, .hostWrite .word 0x000 (cmdWord 0x48 0x02), .tick]).agenda =
      .hostWrite .word 0x000 0x00000001 ::
        (([0x48] : List Byte).map (fun b => Label.hostWrite .word 0x000 (cmdWord b 0x02)) ++ [.tick]) := rfl

theorem witness_IllegalCommandOnlySetsCmdErr :
    (Instr.illegalCmd 0x00).wf = true ∧ (Instr.illegalCmd 0x04).wf = true ∧ (Instr.illegalCmd 0xFF).wf = true := by decide

/-- Rejected: OP 0x04 on the idle block, OP 0x03 while BUSY. -/
theorem witness_CommandWriteRejected :
    (next [.hostWrite .word 0x000 0x04]).agenda = .hostWrite .word 0x000 0x04 :: [] ∧
      (opField 0x04 ≠ 0x01 ∧ opField 0x04 ≠ 0x02 ∧ (opField 0x04 = 0x03 → base.status.busy = true)) ∧
      (flight .tx [.hostWrite .word 0x000 0x03]).agenda = .hostWrite .word 0x000 0x03 :: [] ∧
      (opField 0x03 ≠ 0x01 ∧ opField 0x03 ≠ 0x02 ∧ (opField 0x03 = 0x03 → (flight .tx []).status.busy = true)) := by
  refine ⟨rfl, by decide, rfl, by decide⟩

/-- Accepted: OP 0x01 and 0x02 while BUSY, OP 0x03 on the idle block. -/
theorem witness_CommandWriteAccepted :
    (flight .tx [.hostWrite .word 0x000 0x01]).agenda = .hostWrite .word 0x000 0x01 :: [] ∧ opField 0x01 = 0x01 ∧
      (flight .tx [.hostWrite .word 0x000 0x02]).agenda = .hostWrite .word 0x000 0x02 :: [] ∧ opField 0x02 = 0x02 ∧
      (next [.hostWrite .word 0x000 0x03]).agenda = .hostWrite .word 0x000 0x03 :: [] ∧
      (opField 0x03 = 0x03 ∧ base.status.busy = false) := by
  refine ⟨rfl, by decide, rfl, by decide, rfl, by decide⟩

theorem witness_ReservedCommandBitsIgnored :
    ((0xFFFF4802 : Word).extractLsb' 0 8 = (0x00004802 : Word).extractLsb' 0 8 ∧
        (0xFFFF4802 : Word).extractLsb' 8 8 = (0x00004802 : Word).extractLsb' 8 8) ∧
      (0xFFFFFF03 : Word).extractLsb' 0 8 = (0x00000003 : Word).extractLsb' 0 8 ∧
      (0xFFFFFF03 : Word).extractLsb' 0 8 ≠ (0x02 : Byte) := by decide

theorem witness_DecodeOfEncodeIsIdentity :
    (Instr.req8 0xFF 0xFFFF 0xFFFF).wf = true ∧ (Instr.rspn 0xFF 0x7F 0xFF).wf = true := by decide

theorem witness_ResponseFramesRoundTrip :
    (ResponseFrame.normal 0 0 [] 0).wf = true ∧ (ResponseFrame.exception 0xFF 0x7F 0xFF 0xFFFF).wf = true ∧
      decodeFrame [0x01, 0x03, 0x00, 0x20, 0xF0] = .ok (.normal 1 3 [] 0xF020) := by decide

theorem witness_HostAccessPrimitives :
    (next [.hostRead .word 0x004]).agenda = .hostRead .word 0x004 :: [] ∧
      (next [.hostWrite .word 0x014 5]).agenda = .hostWrite .word 0x014 5 :: [] ∧
      (0x004 : Offset) ∉ ([0x000, 0x008, 0x00C, 0x010, 0x014] : List Offset) := by
  refine ⟨rfl, rfl, by decide⟩

/-- A half word access; an offset that is no multiple of 4; the first hole after TXCRC; the last register and the hole after. -/
theorem witness_UnmappedAccessHasNoEffect :
    (AccessWidth.half ≠ .word) ∧ (0x001 : Offset).toNat % 4 ≠ 0 ∧ regAt 0x02C = none ∧
      (∃ r ∉ ([.cmd, .slave, .addr, .count, .maxregs] : List HostReg), (0x80C : Offset).toNat = regOffset r) ∧
      regAt 0x810 = none ∧ (next [.hostWrite .word 0x810 1]).agenda = .hostWrite .word 0x810 1 :: [] := by
  refine ⟨by decide, by decide, by decide, ⟨.rxbyte 259, by decide, by decide⟩, by decide, rfl⟩

/-- The offset 0x810 is no register's. -/
theorem witness_UnmappedOffset : ∀ r, (0x810 : Offset).toNat ≠ regOffset r := by
  intro r
  have h : (0x810 : Offset).toNat = 2064 := rfl
  cases r <;> simp only [regOffset, h] <;> omega

theorem witness_OperandRegistersReadBack :
    ((0x00C, 0xFFFF) : Offset × Word) ∈ ([(0x008, 0xFF), (0x00C, 0xFFFF), (0x010, 0xFFFF), (0x014, 0xFF)] : List (Offset × Word)) ∧
      (next [.hostWrite .word 0x00C 0xFFFFFFFF]).agenda = .hostWrite .word 0x00C 0xFFFFFFFF :: [] := by
  refine ⟨by decide, rfl⟩

theorem witness_RegWindowIsAViewOfTheBuffer :
    (BlockInv (sending 0 []) ∧ (sending 0 []).status.busy = true) ∧
      BlockInv (failed []) ∧ (failed []).result.errKind ≠ .none :=
  ⟨⟨sending_inv, rfl⟩, failed_inv, by decide⟩

/-- RX_CAP = 23, slot 23: the first slot at or above the capacity. -/
theorem witness_RxByteWindowIsAViewOfTheBuffer :
    BlockInv { base with cfg := ⟨18, 2, 10⟩ } ∧ ({ base with cfg := ⟨18, 2, 10⟩ } : State).cfg.rxCap ≤ (23 : Fin 260).val :=
  ⟨blockInv_of _ (by decide +kernel) (by decide +kernel) (by decide +kernel) trivial
      (by unfold RequestHeld; decide +kernel) (by decide +kernel), by decide⟩

theorem witness_OnlyCrcCommandsWriteTheAccumulator :
    ∃ t, step (next [.hostWrite .word 0x000 0x0102]) = .next t ∧ t.crcAcc = 0x807E :=
  next_of_sees (f := (·.crcAcc)) (by decide +kernel)

theorem witness_ReadHoldingAcceptedWhenNotBusy :
    (base.status.busy = false ∧ (succeeded []).status.busy = false) ∧
      BlockInv (atDeadline []) ∧ (atDeadline []).status.busy = true := ⟨by decide, atDeadline_inv.1, rfl⟩

theorem witness_ReadHoldingWhileBusyLeavesTransaction : (flight .rxBody []).status.busy = true := by decide

/-- Results of a transaction stand when the next one is accepted. -/
theorem witness_AcceptanceHidesPreviousResults :
    (succeeded []).status.busy = false ∧ hostRead .word 0x100 (succeeded []) ≠ 0 := by decide +kernel

theorem witness_FramerBuildsRequest : base.status.busy = false := rfl

theorem witness_AcceptanceRunsTheFramer : ({ base with operands := ⟨1, 0x0048, 9, 9⟩ } : State).status.busy = false := rfl

/-- PRE_DELAY at its end and one ms before it; TX at its last push, after it, and with a transport that is not ready; POST_DELAY. -/
theorem witness_DelayEndsAndPushes :
    (∃ (s : State) (rest : List Label), s.agenda = .internal :: rest ∧ s.state = .preDelay ∧ s.cfg.tPreMs ≤ s.tmr) ∧
      (∃ (s : State) (rest : List Label), s.agenda = .internal :: rest ∧ s.state = .preDelay ∧ s.tmr + 1 = s.cfg.tPreMs) ∧
      (∃ (s : State) (rest : List Label), s.agenda = .internal :: rest ∧ s.state = .tx ∧ s.txIdx.toNat = 7 ∧ s.txReady = true) ∧
      (∃ (s : State) (rest : List Label), s.agenda = .internal :: rest ∧ s.state = .tx ∧ s.txIdx.toNat = 7 ∧ s.txReady = false) ∧
      (∃ (s : State) (rest : List Label), s.agenda = .internal :: rest ∧ s.state = .tx ∧ 8 ≤ s.txIdx.toNat) ∧
      (∃ (s : State) (rest : List Label), s.agenda = .internal :: rest ∧ s.state = .postDelay ∧ s.cfg.tPostMs ≤ s.tmr) :=
  ⟨⟨{ flight .preDelay [.internal] with tmr := 2 }, [], rfl, rfl, by decide⟩,
    ⟨{ flight .preDelay [.internal] with tmr := 1 }, [], rfl, rfl, by decide⟩,
    ⟨sending 7 [.internal], [], rfl, rfl, rfl, rfl⟩,
    ⟨{ sending 7 [.internal] with txReady := false }, [], rfl, rfl, rfl, rfl⟩,
    ⟨sending 8 [.internal], [], rfl, rfl, by decide⟩,
    ⟨{ flight .postDelay [.internal] with tmr := 10 }, [], rfl, rfl, by decide⟩⟩

/-- A block with T_PRE_MS = 0 and a transport that is ready; TX with one that is not. -/
theorem witness_ZeroPreDelaySendsBeforeAnyTick :
    (∃ (s : State) (rest : List Label), s.status.busy = false ∧ s.cfg.tPreMs = 0 ∧ s.txReady = true ∧
        s.agenda = .hostWrite .word 0x000 0x00000003 :: .tick :: rest) ∧
      ∃ (s : State) (rest : List Label), s.state = .tx ∧ s.txReady = false ∧ s.agenda = List.replicate 2 .tick ++ rest :=
  ⟨⟨{ base with cfg := ⟨255, 0, 10⟩, agenda := [.hostWrite .word 0x000 0x00000003, .tick] }, [], by decide +kernel⟩,
    ⟨{ sending 0 [.tick, .tick] with txReady := false }, [], by decide +kernel⟩⟩

theorem witness_RequestBytesLeaveInOrder :
    ∃ (s : State) (rest : List Label), s.state = .tx ∧ s.txIdx = 0 ∧ s.txReady = true ∧
      s.agenda = List.replicate 8 .internal ++ rest :=
  ⟨sending 0 (List.replicate 8 .internal ++ [.txComplete]), [.txComplete], by decide +kernel⟩

theorem witness_BytesArePushedOnlyWhileDriving :
    BlockInv (sending 0 []) ∧ ∃ t, step (sending 0 []) = .next t ∧ t.sent = [0x01] :=
  ⟨sending_inv, next_of_sees (f := (·.sent)) (by decide +kernel)⟩

theorem witness_TxCompleteOpensTheDeadlineWindow :
    (sending 8 [.txComplete]).agenda = .txComplete :: [] ∧ (sending 8 [.txComplete]).state = .tx ∧
      (sending 8 [.txComplete]).txIdx = 8 := ⟨rfl, rfl, rfl⟩

/-- TX before the eighth push; IDLE; and a controller with nothing to do. -/
theorem witness_LabelsNotEnabledPassWithoutEffect :
    ((sending 7 [.txComplete]).agenda = .txComplete :: [] ∧ (sending 7 [.txComplete]).txIdx ≠ 8) ∧
      ((next [.txComplete]).agenda = .txComplete :: [] ∧ (next [.txComplete]).state ≠ .tx) ∧
      (sending 8 [.internal]).agenda = .internal :: [] ∧ internalEnabled (sending 8 [.internal]) = false :=
  ⟨⟨rfl, by decide⟩, ⟨rfl, by decide⟩, rfl, by decide⟩

theorem witness_WithoutTxCompleteTheTransactionIsStuck :
    (sending 7 [.tick, .rxArrive 1]).state = .tx ∧ (sending 7 [.tick, .rxArrive 1]).status.busy = true ∧
      (sending 7 [.tick, .rxArrive 1]).status.done = false ∧
      ∀ l ∈ (sending 7 [.tick, .rxArrive 1]).agenda, l ≠ .txComplete ∧ l ≠ .reset := by decide

theorem witness_TickAdvancesTheTimersOfItsState :
    (∃ (s : State) (rest : List Label), s.agenda = .tick :: rest ∧ internalEnabled s = false ∧ s.state = .idle) ∧
      (∃ (s : State) (rest : List Label), s.agenda = .tick :: rest ∧ internalEnabled s = false ∧ s.state = .tx) ∧
      (∃ (s : State) (rest : List Label), s.agenda = .tick :: rest ∧ internalEnabled s = false ∧ s.state = .preDelay) ∧
      (∃ (s : State) (rest : List Label), s.agenda = .tick :: rest ∧ internalEnabled s = false ∧ s.state = .postDelay ∧ s.tmr = 9) ∧
      (∃ (s : State) (rest : List Label), s.agenda = .tick :: rest ∧ internalEnabled s = false ∧ s.state = .rxHeader) ∧
      ∃ (s : State) (rest : List Label), s.agenda = .tick :: rest ∧ internalEnabled s = false ∧ s.state = .rxBody ∧ s.elapsed = 999 :=
  ⟨⟨next [.tick], [], rfl, by decide, rfl⟩, ⟨sending 8 [.tick], [], rfl, by decide, rfl⟩,
    ⟨flight .preDelay [.tick], [], rfl, by decide, rfl⟩,
    ⟨{ flight .postDelay [.tick] with tmr := 9 }, [], rfl, by decide, rfl, rfl⟩,
    ⟨flight .rxHeader [.tick], [], rfl, by decide, rfl⟩,
    ⟨{ reading [.tick] with elapsed := 999 }, [], rfl, by decide, rfl, rfl⟩⟩

theorem witness_InternalStepsAreUrgent :
    BlockInv { atDeadline [0xF0] with agenda := [.tick] } ∧ internalEnabled { atDeadline [0xF0] with agenda := [.tick] } = true :=
  ⟨blockInv_agenda atDeadline_inv.2 _, by decide⟩

theorem witness_DeadlineEndsTheReadWithoutPopping :
    (∃ (s : State) (rest : List Label), s.agenda = .internal :: rest ∧ s.elapsed = 1000 ∧ s.state = .rxHeader ∧ s.inq ≠ []) ∧
      ∃ (s : State) (rest : List Label), s.agenda = .internal :: rest ∧ s.elapsed = 1000 ∧ s.state = .rxBody ∧ s.inq ≠ [] :=
  ⟨⟨{ flight .rxHeader [.internal] with elapsed := 1000, inq := [1] }, [], rfl, rfl, rfl, by decide⟩,
    ⟨{ reading [.internal] with elapsed := 1000, inq := [1] }, [], rfl, rfl, rfl, by decide⟩⟩

theorem witness_ThirdHeaderByteRunsTheDecodedResponse :
    (∃ (s : State) (rest : List Label) (q : List Byte), s.agenda = .internal :: rest ∧ s.state = .rxHeader ∧ s.elapsed = 999 ∧ s.inq = 1 :: q ∧ s.rxLen.toNat = 1) ∧
      ∃ (s : State) (rest : List Label) (q : List Byte), s.agenda = .internal :: rest ∧ s.state = .rxHeader ∧ s.elapsed = 999 ∧ s.inq = 2 :: q ∧
        s.rxLen.toNat = 2 ∧ decode (.received [Memory.read (Memory.write s.rx 2 2) 0, Memory.read (Memory.write s.rx 2 2) 1,
          Memory.read (Memory.write s.rx 2 2) 2]) = .ok (.rspx 1 3 2) :=
  ⟨⟨{ flight .rxHeader [.internal] with elapsed := 999, inq := [1], rxLen := 1 }, [], [], rfl, rfl, rfl, rfl, rfl⟩,
    ⟨{ flight .rxHeader [.internal] with elapsed := 999, inq := [2], rx := [(0, 0x01), (1, 0x83)], rxLen := 2 }, [], [],
      rfl, rfl, rfl, rfl, rfl, by decide⟩⟩

theorem witness_ExceptionResponseFailsFast : (0x80 : Byte).getLsbD 7 = true ∧ (0xFF : Byte).getLsbD 7 = true := by decide

/-- The byte counts on both sides of a capacity of 23. -/
theorem witness_NormalResponseIsSizedByItsByteCount :
    (0x00 : Byte).getLsbD 7 = false ∧ (0x7F : Byte).getLsbD 7 = false ∧
      ∃ c : Config, c.rxCap = 23 ∧ c.rxCap < 5 + (19 : Byte).toNat ∧ 5 + (18 : Byte).toNat ≤ c.rxCap :=
  ⟨by decide, by decide, ⟨18, 2, 10⟩, by decide⟩

/-- The last byte but one, the last byte of a frame that fails its check, and of one that passes. -/
theorem witness_LastBodyByteChecksTheFrame :
    (∃ (s : State) (rest : List Label) (q : List Byte), s.agenda = .internal :: rest ∧ s.state = .rxBody ∧ s.elapsed = 999 ∧ s.inq = 0x20 :: q ∧
        s.rxLen.toNat + 2 = s.total.toNat ∧ s.total.toNat ≤ s.cfg.rxCap) ∧
      (∃ (s : State) (rest : List Label) (q : List Byte), s.agenda = .internal :: rest ∧ s.state = .rxBody ∧ s.elapsed = 999 ∧ s.inq = 0xF1 :: q ∧
        s.rxLen.toNat + 1 = s.total.toNat ∧ s.total.toNat ≤ s.cfg.rxCap ∧
        crc16 (rxBytes (Memory.write s.rx 4 0xF1) 3) ≠ 0xF120) ∧
      ∃ (s : State) (rest : List Label) (q : List Byte), s.agenda = .internal :: rest ∧ s.state = .rxBody ∧ s.elapsed = 999 ∧ s.inq = 0xF0 :: q ∧
        s.rxLen.toNat + 1 = s.total.toNat ∧ s.total.toNat ≤ s.cfg.rxCap ∧
        crc16 (rxBytes (Memory.write s.rx 4 0xF0) 3) = 0xF020 :=
  ⟨⟨{ reading [.internal] with elapsed := 999, inq := [0x20], rx := [(0, 0x01), (1, 0x03)], rxLen := 3 }, [], [],
      rfl, rfl, rfl, rfl, rfl, by decide⟩,
    ⟨{ reading [.internal] with elapsed := 999, inq := [0xF1] }, [], [], rfl, rfl, rfl, rfl, rfl, by decide, by decide +kernel⟩,
    ⟨{ reading [.internal] with elapsed := 999, inq := [0xF0] }, [], [], rfl, rfl, rfl, rfl, rfl, by decide, by decide +kernel⟩⟩

/-- V-P-3 and V-P-8. -/
theorem witness_HeaderAloneDecidesEarlyFailures :
    (∃ s : State, s.agenda = [] ∧ s.state = .rxHeader ∧ s.rxLen = 0 ∧ s.elapsed = 999 ∧ Memory.wf s.rx = true ∧
        s.inq = 0x01 :: 0x83 :: 0x02 :: [0xC0, 0xF1] ∧ isException 0x83 = true) ∧
      ∃ s : State, s.agenda = [] ∧ s.state = .rxHeader ∧ s.rxLen = 0 ∧ s.elapsed = 999 ∧ Memory.wf s.rx = true ∧
        s.inq = 0x01 :: 0x03 :: 0x12 :: [] ∧ isException 0x03 = false ∧ s.cfg.rxCap + 1 = 5 + (0x12 : Byte).toNat :=
  ⟨⟨{ flight .rxHeader [] with elapsed := 999, inq := [0x01, 0x83, 0x02, 0xC0, 0xF1] }, by
      refine ⟨rfl, rfl, rfl, rfl, rfl, rfl, by decide⟩⟩,
    ⟨{ flight .rxHeader [] with elapsed := 999, inq := [0x01, 0x03, 0x12], cfg := ⟨17, 2, 10⟩ }, by
      refine ⟨rfl, rfl, rfl, rfl, rfl, rfl, by decide, by decide⟩⟩⟩

/-- V-P-14 followed by one more byte, in a block of the smallest capacity, and V-P-15. -/
theorem witness_WholeResponseSucceedsExactlyWhenItsCrcPasses :
    (∃ (s : State) (tail more : List Byte), s.agenda = [] ∧ s.state = .rxHeader ∧ s.rxLen = 0 ∧ s.elapsed = 999 ∧
        Memory.wf s.rx = true ∧ isException 0x03 = false ∧ tail.length = (0x00 : Byte).toNat + 2 ∧
        5 + (0x00 : Byte).toNat = s.cfg.rxCap ∧ s.inq = 0x01 :: 0x03 :: 0x00 :: (tail ++ more) ∧
        crcOk (0x01 :: 0x03 :: 0x00 :: tail) = true) ∧
      ∃ (s : State) (tail more : List Byte), s.agenda = [] ∧ s.state = .rxHeader ∧ s.rxLen = 0 ∧ s.elapsed = 999 ∧
        Memory.wf s.rx = true ∧ isException 0x03 = false ∧ tail.length = (0x02 : Byte).toNat + 2 ∧
        5 + (0x02 : Byte).toNat ≤ s.cfg.rxCap ∧ s.inq = 0x01 :: 0x03 :: 0x02 :: (tail ++ more) ∧
        crcOk (0x01 :: 0x03 :: 0x02 :: tail) = false :=
  ⟨⟨{ flight .rxHeader [] with elapsed := 999, inq := [0x01, 0x03, 0x00, 0x20, 0xF0, 0x77], cfg := ⟨0, 2, 10⟩ },
      [0x20, 0xF0], [0x77], rfl, rfl, rfl, rfl, rfl, by decide, rfl, rfl, rfl, by decide +kernel⟩,
    ⟨{ flight .rxHeader [] with elapsed := 999, inq := [0x01, 0x03, 0x02, 0xAB, 0xCD, 0x06, 0xE0] },
      [0xAB, 0xCD, 0x06, 0xE0], [], rfl, rfl, rfl, rfl, rfl, by decide, rfl, by decide, rfl, by decide +kernel⟩⟩

theorem witness_WindowCompletesWithinItsTicks :
    ∃ (s : State) (rest : List Label), BlockInv s ∧ InWindow s ∧ s.cfg.tPostMs = 10 ∧
      s.agenda = List.replicate (max s.cfg.tPostMs 1000 + 1) .tick ++ rest :=
  ⟨_, [.rxArrive 0x55], blockInv_agenda postDelay_inv (List.replicate (max 10 1000 + 1) .tick ++ [.rxArrive 0x55]), .inl rfl,
    rfl, rfl⟩

theorem witness_LongPostDelayAlwaysTimesOut :
    BlockInv longPost ∧ longPost.state = .postDelay ∧ longPost.tmr = 0 ∧ longPost.elapsed = 0 ∧ longPost.cfg.tPostMs = 1000 ∧
      longPost.agenda = [] := ⟨longPost_inv, rfl, rfl, rfl, rfl, rfl⟩

theorem witness_LastByteAndDeadlineInEitherOrder :
    BlockInv (atDeadline []) ∧ (atDeadline []).state = .rxBody ∧ (atDeadline []).elapsed = 999 ∧ (atDeadline []).inq = [] ∧
      (atDeadline []).rxLen.toNat + 1 = (atDeadline []).total.toNat := ⟨atDeadline_inv.1, rfl, rfl, rfl, rfl⟩

theorem witness_StepRunsTheDecodedCommand :
    (next [.hostWrite .word 0x000 0x4802]).agenda = .hostWrite .word 0x000 0x4802 :: [] ∧
      decode (.cmd 0x4802) = .ok (.crcByte 0x48) := by
  refine ⟨rfl, by decide⟩

theorem witness_ResetStepSetsEveryRegister : (succeeded [.reset, .tick]).agenda = .reset :: [.tick] := rfl

/-- The invariant, the outcome table and their premises hold together of a finished transaction, a failed one and one in
flight, and a step leads on from each. -/
theorem witness_StepKeepsTheInvariant :
    (BlockInv (succeeded []) ∧ OutcomeRecorded (succeeded []) ∧ ∃ t, step (succeeded []) = .next t ∧ t.state = .idle) ∧
      (BlockInv (failed []) ∧ OutcomeRecorded (failed []) ∧ ∃ t, step (failed []) = .next t ∧ t.state = .idle) ∧
      BlockInv (atDeadline [0xF0]) ∧ OutcomeRecorded (atDeadline [0xF0]) ∧
        ∃ t, step (atDeadline [0xF0]) = .next t ∧ t.state = .idle :=
  ⟨⟨succeeded_inv, succeeded_outcome, next_of_sees (f := (·.state)) (by decide +kernel)⟩,
    ⟨failed_inv, failed_outcome, next_of_sees (f := (·.state)) (by decide +kernel)⟩,
    atDeadline_inv.2, fun h => absurd h (by decide), next_of_sees (f := (·.state)) (by decide +kernel)⟩

theorem witness_NoStepFaultsOrRefuses : BlockInv base := base_inv

/-- In RX_HEADER with the bytes `01 fc` stored and the byte `third` waiting, at ELAPSED = `e`, in a block with RX_CAP = 22. -/
def atHeader (fc third : Byte) (e : Nat) : State :=
  { flight .rxHeader [] with
    cfg := ⟨17, 2, 10⟩, rx := [(0, 0x01), (1, fc)], rxLen := 2, inq := [third], elapsed := e }

theorem atHeader_inv :
    BlockInv (atHeader 0x03 0x12 1000) ∧ BlockInv (atHeader 0x83 0x02 999) ∧ BlockInv (atHeader 0x03 0x12 999) := by
  refine ⟨?_, ?_, ?_⟩ <;>
    exact blockInv_of _ (by decide +kernel) (by decide +kernel) (by decide +kernel)
      ⟨by decide +kernel, by decide +kernel, by decide +kernel⟩ (by unfold RequestHeld; decide +kernel) (by decide +kernel)

/-- The body's two other ends: at the deadline, and with a last byte that fails the check. -/
theorem body_ends_inv : BlockInv { atDeadline [0xF0] with elapsed := 1000 } ∧ BlockInv (atDeadline [0xF1]) := by
  refine ⟨?_, ?_⟩ <;>
    exact blockInv_of _ (by decide +kernel) (by decide +kernel) (by decide +kernel)
      ⟨by decide +kernel, by decide +kernel, by decide +kernel, by decide +kernel, by decide +kernel⟩
      (by unfold RequestHeld; decide +kernel) (by decide +kernel)

/-- What ends a transaction: the flag and the kind the step leaves. -/
def endsWith (s : State) (k : ErrKind) : Prop :=
  BlockInv s ∧ s.status.busy = true ∧ (∀ rest, s.agenda ≠ .reset :: rest) ∧
    ∃ t, step s = .next t ∧ (t.status.busy, t.result.errKind) = (false, k)

/-- Each of the six outcomes ends a transaction, the two timeouts at the boundary ELAPSED = 1000, the others at 999, and the
oversized response at RX_CAP + 1. -/
theorem witness_OnlyTheSixOutcomesEndATransaction :
    endsWith (atHeader 0x03 0x12 1000) .headerTimeout ∧ endsWith (atHeader 0x83 0x02 999) .protocolException ∧
      endsWith (atHeader 0x03 0x12 999) .responseTooLarge ∧
      endsWith { atDeadline [0xF0] with elapsed := 1000 } .bodyTimeout ∧ endsWith (atDeadline [0xF1]) .crcMismatch ∧
      endsWith (atDeadline [0xF0]) .none := by
  refine ⟨⟨atHeader_inv.1, ?_⟩, ⟨atHeader_inv.2.1, ?_⟩, ⟨atHeader_inv.2.2, ?_⟩, ⟨body_ends_inv.1, ?_⟩,
    ⟨body_ends_inv.2, ?_⟩, ⟨atDeadline_inv.2, ?_⟩⟩ <;>
    exact ⟨rfl, (fun _ h => by cases h),
      next_of_sees (f := fun t => (t.status.busy, t.result.errKind)) (by decide +kernel)⟩

theorem witness_CompletedResultsStandUntilAcceptance :
    BlockInv { succeeded [] with agenda := [.hostWrite .word 0x000 0x01] } ∧ (succeeded []).status.done = true ∧
      (∃ t, step (succeeded [.hostWrite .word 0x000 0x01]) = .next t ∧ t.crcAcc = 0xFFFF) ∧ opField 0x01 ≠ 0x03 :=
  ⟨blockInv_agenda succeeded_inv _, rfl, next_of_sees (f := (·.crcAcc)) (by decide +kernel), by decide⟩

theorem witness_OperandWritesNeverReachTheTransactionInFlight :
    (flight .tx [.hostWrite .word 0x008 2]).status.busy = true ∧
      (∃ t, step (flight .tx [.hostWrite .word 0x008 2]) = .next t ∧ t.operands.slaveId = 2) ∧
      ∀ rest, (flight .tx [.hostWrite .word 0x008 2]).agenda ≠ .reset :: rest :=
  ⟨rfl, next_of_sees (f := (·.operands.slaveId)) (by decide +kernel), fun _ h => by cases h⟩

theorem witness_InboundQueueLosesBytesOnlyToFlushOrPop :
    ∃ t, step { reading [] with inq := [0xF0, 0x77] } = .next t ∧ t.inq = [0x77] :=
  next_of_sees (f := (·.inq)) (by decide +kernel)

/-- A byte arrives in TX. -/
theorem witness_InboundQueueKeepsArrivals : (sending 8 [.rxArrive 0x55]).agenda = .rxArrive 0x55 :: [] := rfl

/-- Ready becomes not ready, and not ready ready. -/
theorem witness_ReadinessLabelSetsOnlyReadiness :
    ((sending 0 [.txReady false]).agenda = .txReady false :: [] ∧ (sending 0 [.txReady false]).txReady = true) ∧
      ({ sending 0 [.txReady true] with txReady := false } : State).agenda = .txReady true :: [] := ⟨⟨rfl, rfl⟩, rfl⟩

/-- The window opens; in it a byte arrives, the last Tick passes, and the last byte completes the transaction. -/
theorem witness_WindowTicksAreBounded :
    ((sending 8 [.txComplete]).agenda = .txComplete :: [] ∧ (sending 8 [.txComplete]).state = .tx ∧
        (sending 8 [.txComplete]).txIdx = 8) ∧
      (BlockInv { flight .postDelay [] with agenda := [.rxArrive 0x55] } ∧
        ∃ t, step { flight .postDelay [] with agenda := [.rxArrive 0x55] } = .next t ∧ ticksLeft t = 1000) ∧
      (BlockInv (atDeadline []) ∧ InWindow (atDeadline []) ∧ takesTick (atDeadline []) = true ∧ ticksLeft (atDeadline []) = 1 ∧
        ∃ t, step (atDeadline []) = .next t ∧ ticksLeft t = 0) ∧
      (∀ rest, (atDeadline []).agenda ≠ .reset :: rest) ∧
      BlockInv (atDeadline [0xF0]) ∧ ∃ t, step (atDeadline [0xF0]) = .next t ∧ t.state = .idle :=
  ⟨⟨rfl, rfl, rfl⟩,
    ⟨blockInv_agenda postDelay_inv _, next_of_sees (f := ticksLeft) (by decide +kernel)⟩,
    ⟨atDeadline_inv.1, .inr (.inr rfl), by decide +kernel, by decide +kernel,
      next_of_sees (f := ticksLeft) (by decide +kernel)⟩,
    (fun _ h => by cases h), atDeadline_inv.2, next_of_sees (f := (·.state)) (by decide +kernel)⟩

/-- T_POST_MS = 1000: outside reception, in POST_DELAY at its start, and in RX_HEADER, where a byte waits and the step ends the
transaction. -/
theorem witness_LongPostDelayLeavesOnlyHeaderTimeout :
    (1000 ≤ longPost.cfg.tPostMs ∧ ({ longPost with state := .tx } : State).state = .tx) ∧
      PostDelayOutlastsDeadline longPost ∧
      PostDelayOutlastsDeadline { longPost with state := .rxHeader, elapsed := 1000, inq := [0x01] } ∧
      ({ longPost with state := .rxHeader, elapsed := 1000, inq := [0x01] } : State).status.busy = true ∧
      ∃ t, step { longPost with state := .rxHeader, elapsed := 1000, inq := [0x01] } = .next t ∧ t.status.busy = false :=
  ⟨by decide, ⟨by decide, by decide, by decide, by decide⟩, ⟨by decide, by decide, by decide, by decide⟩, rfl,
    next_of_sees (f := (·.status.busy)) (by decide +kernel)⟩

/-- Two finished blocks that differ in the byte above RXLEN. -/
theorem witness_BufferAboveRxLenIsUnobservable :
    BlockInv (failed []) ∧ OutcomeRecorded (failed []) ∧
      Memory.wf ({ failed [] with rx := [(0, 0x01), (1, 0x83), (2, 0x02), (3, 0x99)] } : State).rx = true ∧
      SameBelowRxLen (failed []) { failed [] with rx := [(0, 0x01), (1, 0x83), (2, 0x02), (3, 0x99)] } :=
  ⟨failed_inv, failed_outcome, by decide +kernel, rfl, by
    intro j h
    have : j = 0 ∨ j = 1 ∨ j = 2 := by
      have h' : j < 3 := h
      omega
    rcases this with rfl | rfl | rfl <;> rfl⟩

end Sys2Proof.Tests
end

section
/-! SUPPORT. What each shared operation leaves unchanged, where Sys2Proof/Laws/State.lean has no lemma for it, and what an
internal step answers in each of its rows. -/

namespace Sys2Proof.Machine

/-! ### Time and the check of a frame -/

/-- A Tick changes nothing but the two timers (R164, R168, R169, R171). -/
theorem tickTimers_eq (s : State) :
    tickTimers s = { s with tmr := (tickTimers s).tmr, elapsed := (tickTimers s).elapsed } := by
  unfold tickTimers
  split <;> rfl

@[simp] theorem tickTimers_cfg (s : State) : (tickTimers s).cfg = s.cfg := by rw [tickTimers_eq]
@[simp] theorem tickTimers_crcAcc (s : State) : (tickTimers s).crcAcc = s.crcAcc := by rw [tickTimers_eq]
@[simp] theorem tickTimers_txCrc (s : State) : (tickTimers s).txCrc = s.txCrc := by rw [tickTimers_eq]
@[simp] theorem tickTimers_state (s : State) : (tickTimers s).state = s.state := by rw [tickTimers_eq]
@[simp] theorem tickTimers_latched (s : State) : (tickTimers s).latched = s.latched := by rw [tickTimers_eq]
@[simp] theorem tickTimers_req (s : State) : (tickTimers s).req = s.req := by rw [tickTimers_eq]
@[simp] theorem tickTimers_inq (s : State) : (tickTimers s).inq = s.inq := by rw [tickTimers_eq]
@[simp] theorem tickTimers_sent (s : State) : (tickTimers s).sent = s.sent := by rw [tickTimers_eq]
@[simp] theorem tickTimers_agenda (s : State) : (tickTimers s).agenda = s.agenda := by rw [tickTimers_eq]

/-- In TX a Tick changes nothing (R171). -/
theorem tickTimers_tx {s : State} (h : s.state = .tx) : tickTimers s = s := by simp [tickTimers, h]

theorem tickTimers_postDelay {s : State} (h : s.state = .postDelay) : tickTimers s = tickElapsed (tickTmr s) := by
  simp [tickTimers, h]

theorem tickTimers_reception {s : State} (h : s.state = .rxHeader ∨ s.state = .rxBody) :
    tickTimers s = tickElapsed s := by
  rcases h with h | h <;> simp [tickTimers, h]

/-- TMR stays at or below the value it saturates at. -/
theorem tickTimers_tmr_le {s : State} (h : s.tmr ≤ tmrLimit s.cfg) : (tickTimers s).tmr ≤ tmrLimit s.cfg := by
  cases hst : s.state <;> simp [tickTimers, hst, h]

/-- ELAPSED stays at or below T_RESP_MS. -/
theorem tickTimers_elapsed_le {s : State} (h : s.elapsed ≤ tRespMs) : (tickTimers s).elapsed ≤ tRespMs := by
  cases hst : s.state <;> simp [tickTimers, hst, h]

/-- The two ends of the check of a frame (R179-R181): both are a completion of the state with its CRCs recorded. -/
theorem checkFrame_cases (s : State) :
    ((recordCrcs s).crcCalc = (recordCrcs s).crcRecv ∧
      checkFrame s = finish .none 0 (returnedRegs s) (recordCrcs s)) ∨
    ((recordCrcs s).crcCalc ≠ (recordCrcs s).crcRecv ∧ checkFrame s = finish .crcMismatch 0 0 (recordCrcs s)) := by
  unfold checkFrame
  dsimp only
  split
  · next h => exact .inl ⟨h, rfl⟩
  · next h => exact .inr ⟨h, rfl⟩

/-- The check of a frame completes the transaction and writes nothing but the CRCs, RESULT, the flags and STATE. -/
theorem checkFrame_eq (s : State) :
    checkFrame s = { s with
      crcCalc := (checkFrame s).crcCalc, crcRecv := (checkFrame s).crcRecv, result := (checkFrame s).result,
      status := ⟨false, true, (checkFrame s).status.ok, s.status.cmdErr⟩, state := .idle } := by
  rcases checkFrame_cases s with ⟨-, h⟩ | ⟨-, h⟩ <;> rw [h] <;> rfl

@[simp] theorem checkFrame_state (s : State) : (checkFrame s).state = .idle := by rw [checkFrame_eq]
@[simp] theorem checkFrame_busy (s : State) : (checkFrame s).status.busy = false := by rw [checkFrame_eq]
@[simp] theorem checkFrame_done (s : State) : (checkFrame s).status.done = true := by rw [checkFrame_eq]
@[simp] theorem checkFrame_rx (s : State) : (checkFrame s).rx = s.rx := by rw [checkFrame_eq]
@[simp] theorem checkFrame_rxLen (s : State) : (checkFrame s).rxLen = s.rxLen := by rw [checkFrame_eq]
@[simp] theorem checkFrame_inq (s : State) : (checkFrame s).inq = s.inq := by rw [checkFrame_eq]
@[simp] theorem checkFrame_sent (s : State) : (checkFrame s).sent = s.sent := by rw [checkFrame_eq]

/-! ### Internal steps -/

/-- When an internal step of the controller is enabled (R165, R166, R170, R172, R173, R177, R178). -/
theorem internalEnabled_iff (s : State) :
    internalEnabled s = true ↔
      (s.state = .preDelay ∧ s.cfg.tPreMs ≤ s.tmr) ∨ (s.state = .tx ∧ s.txIdx.toNat < reqLen ∧ s.txReady = true) ∨
        (s.state = .postDelay ∧ s.cfg.tPostMs ≤ s.tmr) ∨
        ((s.state = .rxHeader ∨ s.state = .rxBody) ∧ (tRespMs ≤ s.elapsed ∨ s.inq ≠ [])) := by
  unfold internalEnabled
  cases s.state <;> simp

/-- A row of R192 is a step that is enabled. -/
theorem InternalStep.enabled {s t : State} (h : InternalStep s t) : internalEnabled s = true := by
  rw [internalEnabled_iff]
  cases h <;> simp_all

theorem internalStep_preDelay {s : State} (h : s.state = .preDelay) (hT : s.cfg.tPreMs ≤ s.tmr) :
    internalStep s = .next (beginTransmit s) := by
  simp [internalStep, internalEnabled, h, hT]

theorem internalStep_tx {s : State} (h : s.state = .tx) (hi : s.txIdx.toNat < reqLen) (hr : s.txReady = true) :
    internalStep s = .next (pushByte s) := by
  simp [internalStep, internalEnabled, h, hi, hr]

theorem internalStep_postDelay {s : State} (h : s.state = .postDelay) (hT : s.cfg.tPostMs ≤ s.tmr) :
    internalStep s = .next (beginReceive s) := by
  simp [internalStep, internalEnabled, h, hT]

theorem internalStep_headerTimeout {s : State} (h : s.state = .rxHeader) (hT : tRespMs ≤ s.elapsed) :
    internalStep s = .next (finish .headerTimeout 0 0 s) := by
  simp [internalStep, internalEnabled, h, hT]

theorem internalStep_bodyTimeout {s : State} (h : s.state = .rxBody) (hT : tRespMs ≤ s.elapsed) :
    internalStep s = .next (finish .bodyTimeout 0 0 s) := by
  simp [internalStep, internalEnabled, h, hT]

theorem internalStep_headerPop {s : State} {b : Byte} {rest : List Byte} (h : s.state = .rxHeader)
    (hT : s.elapsed < tRespMs) (hq : s.inq = b :: rest) (hb : s.rxLen.toNat < s.cfg.rxCap) :
    internalStep s = afterHeaderByte (storedByte b rest s) := by
  rw [← storeThen_in_bounds hb afterHeaderByte]
  simp [internalStep, internalEnabled, h, hq, Nat.not_le.2 hT]

theorem internalStep_bodyPop {s : State} {b : Byte} {rest : List Byte} (h : s.state = .rxBody)
    (hT : s.elapsed < tRespMs) (hq : s.inq = b :: rest) (hb : s.rxLen.toNat < s.cfg.rxCap) :
    internalStep s = afterBodyByte (storedByte b rest s) := by
  rw [← storeThen_in_bounds hb afterBodyByte]
  simp [internalStep, internalEnabled, h, hq, Nat.not_le.2 hT]

/-- The fields no internal step writes: the parameters, what the host owns, the latches and the request, the timers, the
transport's readiness and the agenda. -/
theorem InternalStep.frame {s t : State} (h : InternalStep s t) :
    t = { s with
      status := t.status, result := t.result, crcCalc := t.crcCalc, crcRecv := t.crcRecv, state := t.state, de := t.de,
      txIdx := t.txIdx, rx := t.rx, rxLen := t.rxLen, total := t.total, inq := t.inq, sent := t.sent } := by
  cases h
  case lastByte b rest _ _ _ _ _ => rw [checkFrame_eq]; rfl
  all_goals rfl

/-- The state of a reception in which a waiting byte is popped: the deadline is open (R173, R178). -/
def Receiving (s : State) : Prop := (s.state = .rxHeader ∨ s.state = .rxBody) ∧ s.elapsed < tRespMs

/-- While the deadline is open an internal step of the reception pops the queue's oldest byte and stores it at RXLEN. -/
theorem InternalStep.pops {s t : State} (h : InternalStep s t) (hr : Receiving s) :
    ∃ b, s.inq = b :: t.inq ∧ t.rxLen = s.rxLen + 1 ∧ t.rx = Memory.write s.rx s.rxLen.toNat b := by
  obtain ⟨hst, hT⟩ := hr
  cases h with
  | beginTransmit h | push h | beginReceive h => simp [h] at hst
  | headerTimeout h hE | bodyTimeout h hE => omega
  | headerByte b rest _ _ hq | exception b rest _ _ hq | tooLarge b rest _ _ hq | acceptHeader b rest _ _ hq
  | bodyByte b rest _ _ hq | lastByte b rest _ _ hq => exact ⟨b, by simp [hq]⟩

/-- Outside a reception, and from the deadline on, an internal step leaves the queue alone. -/
theorem InternalStep.keeps_inq {s t : State} (h : InternalStep s t) (hr : ¬ Receiving s) : t.inq = s.inq := by
  cases h with
  | beginTransmit | push | beginReceive | headerTimeout | bodyTimeout => rfl
  | headerByte _ _ h hT | exception _ _ h hT | tooLarge _ _ h hT | acceptHeader _ _ h hT => exact absurd ⟨.inl h, hT⟩ hr
  | bodyByte _ _ h hT | lastByte _ _ h hT => exact absurd ⟨.inr h, hT⟩ hr

/-- An internal step hands the transport a byte only by a push in TX (R166). -/
theorem InternalStep.sent_cases {s t : State} (h : InternalStep s t) :
    t.sent = s.sent ∨ (s.state = .tx ∧ s.txIdx.toNat < reqLen ∧ t = pushByte s) := by
  cases h with
  | push hst hi => exact .inr ⟨hst, hi, rfl⟩
  | lastByte => exact .inl (by simp)
  | _ => exact .inl rfl

/-! ### Instructions -/

/-- READ_HOLDING while BUSY (R104 (b)). -/
theorem exec_readHolding_busy {s : State} (hb : s.status.busy = true) :
    exec .readHolding s = .next (rejectCommand s) := by
  simp [exec, execReadHolding, hb]

/-- READ_HOLDING while no transaction is outstanding (R160, R161). -/
theorem exec_readHolding_accepted {s : State} (hb : s.status.busy = false) :
    exec .readHolding s = .next (acceptTransaction s) := by
  simp [exec, execReadHolding, hb]

/-- A normal response longer than the buffer (R175). -/
theorem exec_rspn_tooLarge {s : State} {slaveId : Byte} {fc : BitVec 7} {byteCount : Byte}
    (hl : s.cfg.rxCap < totalLength byteCount) :
    exec (.rspn slaveId fc byteCount) s = .next (finish .responseTooLarge 0 0 s) := by
  simp [exec, execRspn, hl]

/-- A normal response that fits (R176). -/
theorem exec_rspn_fits {s : State} {slaveId : Byte} {fc : BitVec 7} {byteCount : Byte}
    (hl : totalLength byteCount ≤ s.cfg.rxCap) :
    exec (.rspn slaveId fc byteCount) s =
      .next { s with total := BitVec.ofNat 9 (totalLength byteCount), state := .rxBody } := by
  simp [exec, execRspn, Nat.not_lt.2 hl]

/-- What a command word does, by the OP it carries (R101, R104, R149, R150, R160). -/
inductive DecodedCommand (w : Word) (s : State) : State → Prop
  | init : opField w = 0x01 → DecodedCommand w s (setCrcAcc crcSeed s)
  | byte : opField w = 0x02 → DecodedCommand w s (setCrcAcc (crcByte s.crcAcc (dataField w)) s)
  | accepted : opField w = 0x03 → s.status.busy = false → DecodedCommand w s (acceptTransaction s)
  | rejected : DecodedCommand w s (rejectCommand s)

/-- Inversion of a command word that keeps its OP. -/
theorem decodedCommand_cases {w : Word} {s t : State} (h : exec (decodeCmd w) s = .next t) : DecodedCommand w s t := by
  unfold decodeCmd at h
  split at h
  · next h1 => cases h; exact .init h1
  · split at h
    · next h2 => cases h; exact .byte h2
    · split at h
      · next h3 =>
        simp only [exec, execReadHolding] at h
        split at h
        · cases h; exact .rejected
        · next hb => cases h; exact .accepted h3 (by simpa using hb)
      · cases h; exact .rejected

end Sys2Proof.Machine
end

section
/-! SUPPORT. The invariant of the block: every step keeps it. -/

namespace Sys2Proof.Machine

/-- The part of a state the invariant speaks of; the host's registers, the transport, the CRCs of a received frame, CMDERR and
the agenda are no part of it. -/
def invariantPart (s : State) : State :=
  { State.reset with
    cfg := s.cfg, status := { s.status with cmdErr := false }, result := s.result, txCrc := s.txCrc, state := s.state,
    de := s.de, latched := s.latched, req := s.req, txIdx := s.txIdx, rx := s.rx, rxLen := s.rxLen, total := s.total,
    tmr := s.tmr, elapsed := s.elapsed }

theorem blockInv_invariantPart (s : State) : BlockInv (invariantPart s) ↔ BlockInv s := by
  constructor
  all_goals
    rintro ⟨⟨hbusy, hde, hnot, hok⟩, ⟨hclear, hexc, hregs, hbound⟩, ⟨hcan, hidx, hlen, htot⟩, hphase, hreq, hT, hE⟩
    exact ⟨⟨hbusy, hde, hnot, hok⟩, ⟨hclear, hexc, hregs, hbound⟩, ⟨hcan, hidx, hlen, htot⟩, hphase, hreq, hT, hE⟩

/-- The invariant goes over to a state with the same invariant part. -/
theorem BlockInv.of_invariantPart_eq {s t : State} (h : BlockInv s) (e : invariantPart t = invariantPart s) :
    BlockInv t :=
  (blockInv_invariantPart t).1 (e ▸ (blockInv_invariantPart s).2 h)

/-! ### What the invariant says in each STATE -/

theorem BlockInv.busy_of_ne_idle {s : State} (h : BlockInv s) (hst : s.state ≠ .idle) : s.status.busy = true :=
  h.flags.busy.2 hst

theorem BlockInv.idle_of_not_busy {s : State} (h : BlockInv s) (hb : s.status.busy = false) : s.state = .idle := by
  by_contra hst
  simp [h.busy_of_ne_idle hst] at hb

theorem BlockInv.de_off {s : State} (h : BlockInv s) (hst : s.state ≠ .tx) : s.de = false :=
  Bool.eq_false_iff.2 fun hde => hst (h.flags.de.1 hde)

theorem BlockInv.done_off {s : State} (h : BlockInv s) (hb : s.status.busy = true) : s.status.done = false :=
  Bool.eq_false_iff.2 fun hd => h.flags.notBoth ⟨hb, hd⟩

theorem BlockInv.phase_preDelay {s : State} (h : BlockInv s) (hst : s.state = .preDelay) :
    s.txIdx = 0 ∧ s.rxLen = 0 ∧ s.total = 0 := by
  simpa [PhaseAgrees, hst] using h.phase

theorem BlockInv.phase_tx {s : State} (h : BlockInv s) (hst : s.state = .tx) :
    s.txIdx.toNat ≤ reqLen ∧ s.rxLen = 0 ∧ s.total = 0 := by
  simpa [PhaseAgrees, hst] using h.phase

theorem BlockInv.phase_postDelay {s : State} (h : BlockInv s) (hst : s.state = .postDelay) :
    s.txIdx.toNat = reqLen ∧ s.rxLen = 0 ∧ s.total = 0 := by
  simpa [PhaseAgrees, hst] using h.phase

theorem BlockInv.phase_rxHeader {s : State} (h : BlockInv s) (hst : s.state = .rxHeader) :
    s.txIdx.toNat = reqLen ∧ s.rxLen.toNat < hdrLen ∧ s.total = 0 := by
  simpa [PhaseAgrees, hst] using h.phase

theorem BlockInv.phase_rxBody {s : State} (h : BlockInv s) (hst : s.state = .rxBody) :
    s.txIdx.toNat = reqLen ∧ hdrLen ≤ s.rxLen.toNat ∧ s.rxLen.toNat < s.total.toNat ∧
      s.total.toNat = totalLength (Memory.read s.rx 2) ∧ isException (Memory.read s.rx 1) = false := by
  simpa [PhaseAgrees, hst] using h.phase

/-- No store of the parser falls outside the receive buffer (R79). -/
theorem BlockInv.store_in_bounds {s : State} (h : BlockInv s) (hst : s.state = .rxHeader ∨ s.state = .rxBody) :
    s.rxLen.toNat < s.cfg.rxCap := by
  rcases hst with hst | hst
  · have hlen := (h.phase_rxHeader hst).2.1
    have hcap := (Config.rxCap_range s.cfg).1
    simp only [hdrLen] at hlen
    omega
  · obtain ⟨-, -, hlt, -, -⟩ := h.phase_rxBody hst
    exact Nat.lt_of_lt_of_le hlt h.buffer.total

/-! ### Operations that keep it -/

/-- A completion meets the invariant, wherever the parser stands, when DE is off and RESULT is one its kind allows. -/
theorem blockInv_finish {s : State} {k : ErrKind} {e n : Byte} (hde : s.de = false) (hbuf : BufferInBounds s)
    (htim : TimersBounded s) (he : k ≠ .protocolException → e = 0) (hn : k ≠ .none → n = 0) (hbound : n.toNat ≤ 127) :
    BlockInv (finish k e n s) where
  flags := ⟨by simp [completedFlags], by simp [hde], by simp [completedFlags], by simp [completedFlags]⟩
  result := ⟨by simp [completedFlags], he, hn, hbound⟩
  buffer := ⟨hbuf.canonical, hbuf.indexes, hbuf.rxLen, hbuf.total⟩
  phase := trivial
  request := fun hb => by simp [completedFlags] at hb
  timers := ⟨htim.tmr, htim.elapsed⟩

/-- A store below RX_CAP keeps the buffer canonical and in bounds. -/
theorem bufferInBounds_storedByte {s : State} (h : BufferInBounds s) (b : Byte) (rest : List Byte)
    (hlt : s.rxLen.toNat < s.cfg.rxCap) : BufferInBounds (storedByte b rest s) where
  canonical := Memory.wf_write h.canonical _ _
  indexes := fun c hc => by
    rcases Memory.mem_write hc with hx | hc
    · simpa [hx] using hlt
    · exact h.indexes c hc
  rxLen := by
    rw [storedByte_rxLen, rxLen_succ hlt]
    exact hlt
  total := h.total

/-- NREGS of a success, as a number: eight bits hold it (R181). -/
theorem returnedRegs_toNat (s : State) :
    (returnedRegs s).toNat = min (carriedRegs (Memory.read s.rx 2)) s.latched.maxRegs.toNat := by
  have hlt := s.latched.maxRegs.isLt
  rw [returnedRegs, BitVec.toNat_ofNat, Nat.mod_eq_of_lt (by omega)]

/-- A frame carries at most 127 registers, so a success returns at most 127. -/
theorem returnedRegs_le (s : State) : (returnedRegs s).toNat ≤ 127 := by
  have hlt := (Memory.read s.rx 2).isLt
  rw [returnedRegs_toNat, carriedRegs]
  omega

/-- The check of a frame meets the invariant. -/
theorem blockInv_checkFrame {s : State} (hde : s.de = false) (hbuf : BufferInBounds s) (htim : TimersBounded s) :
    BlockInv (checkFrame s) := by
  have hbuf' : BufferInBounds (recordCrcs s) := ⟨hbuf.canonical, hbuf.indexes, hbuf.rxLen, hbuf.total⟩
  have htim' : TimersBounded (recordCrcs s) := ⟨htim.tmr, htim.elapsed⟩
  rcases checkFrame_cases s with ⟨-, h⟩ | ⟨-, h⟩
  · rw [h]
    exact blockInv_finish hde hbuf' htim' (fun _ => rfl) (fun hk => absurd rfl hk) (returnedRegs_le s)
  · rw [h]
    exact blockInv_finish hde hbuf' htim' (fun _ => rfl) (fun _ => rfl) (by decide)

/-- Acceptance meets the invariant: the results are clear and the request is framed from the operands it latches (R161). -/
theorem blockInv_acceptTransaction {s : State} (h : BlockInv s) (hb : s.status.busy = false) :
    BlockInv (acceptTransaction s) where
  flags := ⟨by simp [acceptedFlags], by simp [h.de_off, h.idle_of_not_busy hb], by simp [acceptedFlags],
    by simp [acceptedFlags]⟩
  result := ⟨fun _ => rfl, fun _ => rfl, fun _ => rfl, Nat.zero_le _⟩
  buffer := ⟨h.buffer.canonical, h.buffer.indexes, Nat.zero_le _, Nat.zero_le _⟩
  phase := ⟨rfl, rfl, rfl⟩
  request := fun _ => ⟨rfl, rfl⟩
  timers := ⟨Nat.zero_le _, Nat.zero_le _⟩

/-- Reset meets the invariant from every state (R260). -/
theorem blockInv_resetBlock (s : State) : BlockInv (resetBlock s) where
  flags := ⟨by simp [resetBlock, State.reset], by simp [resetBlock, State.reset], by simp [resetBlock, State.reset],
    by simp [resetBlock, State.reset]⟩
  result := ⟨fun _ => rfl, fun _ => rfl, fun _ => rfl, Nat.zero_le _⟩
  buffer := ⟨rfl, fun _ hc => absurd hc List.not_mem_nil, Nat.zero_le _, Nat.zero_le _⟩
  phase := trivial
  request := fun hb => absurd hb Bool.false_ne_true
  timers := ⟨Nat.zero_le _, Nat.zero_le _⟩

/-- A Tick keeps the invariant: it moves the timers alone, within their bounds. -/
theorem blockInv_tickTimers {s : State} (h : BlockInv s) : BlockInv (tickTimers s) := by
  have htmr := tickTimers_tmr_le h.timers.tmr
  have hel := tickTimers_elapsed_le h.timers.elapsed
  obtain ⟨⟨hbusy, hde, hnot, hok⟩, ⟨hclear, hexc, hregs, hbound⟩, ⟨hcan, hidx, hlen, htot⟩, hphase, hreq, -⟩ := h
  rw [tickTimers_eq]
  exact ⟨⟨hbusy, hde, hnot, hok⟩, ⟨hclear, hexc, hregs, hbound⟩, ⟨hcan, hidx, hlen, htot⟩, hphase, hreq, htmr, hel⟩

/-- A change of STATE and of what goes with it, inside a transaction, keeps the invariant when the new STATE agrees with DE, the
counters and the buffer, and the timers are bounded: the flags, RESULT, the latches and the request stand. -/
theorem BlockInv.move {s t : State} (h : BlockInv s) (hbusy : s.status.busy = true)
    (hframe : t = { s with
      state := t.state, de := t.de, txIdx := t.txIdx, rx := t.rx, rxLen := t.rxLen, total := t.total, tmr := t.tmr,
      elapsed := t.elapsed, inq := t.inq, sent := t.sent })
    (hst : t.state ≠ .idle) (hde : t.de = true ↔ t.state = .tx) (hbuf : BufferInBounds t) (hphase : PhaseAgrees t)
    (htim : TimersBounded t) : BlockInv t where
  flags := by
    have hstatus : t.status = s.status := by rw [hframe]
    have hresult : t.result = s.result := by rw [hframe]
    exact ⟨by simp [hstatus, hbusy, hst], hde, hstatus ▸ h.flags.notBoth, hstatus ▸ hresult ▸ h.flags.ok⟩
  result := by
    obtain ⟨hclear, hexc, hregs, hbound⟩ := h.result
    rw [hframe]
    exact ⟨hclear, hexc, hregs, hbound⟩
  buffer := hbuf
  phase := hphase
  request := fun _ => by rw [hframe]; exact h.request hbusy
  timers := htim

/-! ### The counters in each STATE -/

/-- A push of one of the eight bytes counts up without wrapping. -/
theorem txIdx_succ {s : State} (h : s.txIdx.toNat < reqLen) : (s.txIdx + 1).toNat = s.txIdx.toNat + 1 := by
  simp only [reqLen] at h
  rw [BitVec.toNat_add]
  simp
  omega

/-- The first two header bytes leave the parser in RX_HEADER (R173). -/
theorem phase_storedByte_rxHeader {s : State} (h : BlockInv s) (hst : s.state = .rxHeader) (b : Byte) (rest : List Byte)
    (hne : (s.rxLen + 1).toNat ≠ hdrLen) : PhaseAgrees (storedByte b rest s) := by
  obtain ⟨hidx, hlow, htot⟩ := h.phase_rxHeader hst
  have hsucc := rxLen_succ (h.store_in_bounds (.inl hst))
  simp only [PhaseAgrees, storedByte_state, hst, storedByte_txIdx, storedByte_rxLen, storedByte_total]
  exact ⟨hidx, by omega, htot⟩

/-- In RX_BODY the header bytes stand: a store at RXLEN does not reach them. -/
theorem phase_storedByte_rxBody {s : State} (h : BlockInv s) (hst : s.state = .rxBody) (b : Byte) (rest : List Byte)
    (hne : s.rxLen + 1 ≠ s.total) : PhaseAgrees (storedByte b rest s) := by
  obtain ⟨hidx, hlow, hlt, htot, hexc⟩ := h.phase_rxBody hst
  have hsucc := rxLen_succ (h.store_in_bounds (.inr hst))
  have hne' : (s.rxLen + 1).toNat ≠ s.total.toNat := fun e => hne (BitVec.eq_of_toNat_eq e)
  simp only [hdrLen] at hlow
  have h1 : Memory.read (storedByte b rest s).rx 1 = Memory.read s.rx 1 := Memory.read_write_other b (by omega)
  have h2 : Memory.read (storedByte b rest s).rx 2 = Memory.read s.rx 2 := Memory.read_write_other b (by omega)
  simp only [PhaseAgrees, storedByte_state, hst, h1, h2, hdrLen, storedByte_txIdx, storedByte_rxLen, storedByte_total]
  exact ⟨hidx, by omega, by omega, htot, hexc⟩

/-- TOTAL holds every announced length (R110). -/
theorem toNat_ofNat_totalLength (n : Byte) : (BitVec.ofNat 9 (totalLength n)).toNat = totalLength n := by
  rw [BitVec.toNat_ofNat, Nat.mod_eq_of_lt (totalLength_lt n)]

theorem hdrLen_lt_totalLength (n : Byte) : hdrLen < totalLength n := by
  simp only [totalLength, hdrLen, crcLen]
  omega

/-! ### Steps -/

/-- Every internal step keeps the invariant. -/
theorem InternalStep.keeps_blockInv {s t : State} (h : InternalStep s t) (hi : BlockInv s) : BlockInv t := by
  have htim : TimersBounded t := by
    rw [h.frame]
    exact ⟨hi.timers.tmr, hi.timers.elapsed⟩
  have hbuf := hi.buffer
  have busy_in {p : CtrlState} (hst : s.state = p) (hp : p ≠ .idle) := hi.busy_of_ne_idle (hst ▸ hp)
  have off_in {p : CtrlState} (hst : s.state = p) (hp : p ≠ .tx) := hi.de_off (hst ▸ hp)
  cases h with
  | beginTransmit hst =>
    obtain ⟨hidx, hlen, htot⟩ := hi.phase_preDelay hst
    exact hi.move (busy_in hst nofun) rfl nofun (by simp) ⟨hbuf.canonical, hbuf.indexes, hbuf.rxLen, hbuf.total⟩
      ⟨by simp [hidx], hlen, htot⟩ htim
  | push hst hlt =>
    obtain ⟨-, hlen, htot⟩ := hi.phase_tx hst
    refine hi.move (busy_in hst nofun) rfl (by simp [hst]) (hi.flags.de)
      ⟨hbuf.canonical, hbuf.indexes, hbuf.rxLen, hbuf.total⟩ ?_ htim
    simp only [PhaseAgrees, pushByte_state, hst, pushByte_txIdx, txIdx_succ hlt]
    exact ⟨hlt, hlen, htot⟩
  | beginReceive hst =>
    obtain ⟨hidx, hlen, htot⟩ := hi.phase_postDelay hst
    exact hi.move (busy_in hst nofun) rfl nofun (by simp [off_in hst])
      ⟨hbuf.canonical, hbuf.indexes, hbuf.rxLen, hbuf.total⟩ ⟨hidx, by simp [hlen, hdrLen], htot⟩ htim
  | headerTimeout hst | bodyTimeout hst =>
    exact blockInv_finish (off_in hst nofun) hbuf hi.timers (fun _ => rfl) (fun _ => rfl) (Nat.zero_le _)
  | headerByte b rest hst _ _ hlt hne =>
    exact hi.move (busy_in hst nofun) rfl (by simp [hst]) hi.flags.de (bufferInBounds_storedByte hbuf b rest hlt)
      (phase_storedByte_rxHeader hi hst b rest hne) htim
  | exception b rest hst _ _ hlt =>
    exact blockInv_finish (off_in hst nofun) (bufferInBounds_storedByte hbuf b rest hlt) ⟨hi.timers.tmr, hi.timers.elapsed⟩
      (fun hk => absurd rfl hk) (fun _ => rfl) (Nat.zero_le _)
  | tooLarge b rest hst _ _ hlt =>
    exact blockInv_finish (off_in hst nofun) (bufferInBounds_storedByte hbuf b rest hlt) ⟨hi.timers.tmr, hi.timers.elapsed⟩
      (fun _ => rfl) (fun _ => rfl) (Nat.zero_le _)
  | acceptHeader b rest hst _ _ hlt h3 hexc hfit =>
    have stored := bufferInBounds_storedByte hbuf b rest hlt
    have htot := toNat_ofNat_totalLength (Memory.read (storedByte b rest s).rx 2)
    have hlong := hdrLen_lt_totalLength (Memory.read (storedByte b rest s).rx 2)
    exact hi.move (busy_in hst nofun) rfl nofun (by simp [off_in hst])
      ⟨stored.canonical, stored.indexes, stored.rxLen, htot.trans_le hfit⟩
      ⟨(hi.phase_rxHeader hst).1, h3.ge, by rw [htot]; exact h3 ▸ hlong, htot, hexc⟩ htim
  | bodyByte b rest hst _ _ hlt hne =>
    exact hi.move (busy_in hst nofun) rfl (by simp [hst]) hi.flags.de (bufferInBounds_storedByte hbuf b rest hlt)
      (phase_storedByte_rxBody hi hst b rest hne) htim
  | lastByte b rest hst _ _ hlt =>
    exact blockInv_checkFrame (off_in hst nofun) (bufferInBounds_storedByte hbuf b rest hlt)
      ⟨hi.timers.tmr, hi.timers.elapsed⟩

/-- The end of transmission keeps the invariant: it is enabled after the eighth push (R167). -/
theorem blockInv_endTransmit {s : State} (h : BlockInv s) (he : txCompleteEnabled s = true) : BlockInv (endTransmit s) := by
  simp only [txCompleteEnabled, Bool.and_eq_true, decide_eq_true_eq] at he
  obtain ⟨hst, hidx⟩ := he
  obtain ⟨-, hlen, htot⟩ := h.phase_tx hst
  exact h.move (h.busy_of_ne_idle (by simp [hst])) rfl nofun (by simp)
    ⟨h.buffer.canonical, h.buffer.indexes, h.buffer.rxLen, h.buffer.total⟩ ⟨hidx, hlen, htot⟩
    ⟨Nat.zero_le _, Nat.zero_le _⟩

/-- Every command keeps the invariant. -/
theorem CommandStep.keeps_blockInv {s t : State} (h : CommandStep s t) (hi : BlockInv s) : BlockInv t := by
  cases h with
  | setCrc | rejected => exact hi.of_invariantPart_eq rfl
  | accepted hb => exact blockInv_acceptTransaction hi hb

/-- Every step keeps the invariant. -/
theorem StepCase.keeps_blockInv {s t : State} (h : StepCase s t) (hi : BlockInv s) : BlockInv t := by
  have tail (rest : List Label) : BlockInv { s with agenda := rest } := hi.of_invariantPart_eq rfl
  cases h with
  | urgent _ hstep => exact hstep.keeps_blockInv hi
  | internal rest _ _ hstep => exact hstep.keeps_blockInv (tail rest)
  | idleTick => exact blockInv_tickTimers hi
  | tick rest => exact blockInv_tickTimers (tail rest)
  | command _ _ _ rest _ _ _ hx => exact (command_cases hx).keeps_blockInv (tail rest)
  | complete rest _ he => exact blockInv_endTransmit (tail rest) he
  | reset => exact blockInv_resetBlock _
  | internalNone | operand | read | arrive | ready | completeNone => exact hi.of_invariantPart_eq rfl

/-- Settles O50: a step is one of the cases of `step_cases`, and each keeps the invariant. -/
theorem stepKeepsTheInvariant : Obligations.StepKeepsTheInvariant := by
  intro s t hi h
  exact (step_cases h).keeps_blockInv hi

/-- Settles O49: the reset state is what a Reset of it leaves. -/
theorem resetMeetsTheInvariant : Obligations.ResetMeetsTheInvariant :=
  ⟨blockInv_resetBlock State.reset, fun hd => absurd hd Bool.false_ne_true⟩

end Sys2Proof.Machine
end

section
/-! SUPPORT. The host register map and the words the host reads. -/

namespace Sys2Proof.Machine

/-! ### The register map -/

/-- The slot of a window is the word counted from its base. -/
theorem windowSlot_eq_some {base size n : Nat} {i : Fin size} :
    windowSlot base size n = some i ↔ base ≤ n ∧ (n - base) / 4 = i.val := by
  unfold windowSlot
  split
  · split
    · next hb => simp [Fin.ext_iff, hb]
    · next hb => simp [hb]
  · next hs =>
    have hlt := i.isLt
    simp only [reduceCtorEq, false_iff, not_and]
    intro _ e
    omega

/-- From 0x100 on a word-aligned offset names a slot of one of the two windows, if it names a register. -/
theorem regAt_windows {off : Offset} (hal : off.toNat % 4 = 0) (hlow : 0x100 ≤ off.toNat) :
    regAt off = ((windowSlot 0x100 128 off.toNat).map HostReg.reg).or ((windowSlot 0x400 260 off.toNat).map .rxbyte) := by
  have ne (k : Offset) (hk : k.toNat < 0x100) : off ≠ k := by
    rintro rfl
    omega
  cases hs : windowSlot 0x100 128 off.toNat <;> simp [regAt, hal, ne, hs]

/-- Every register stands at its offset. -/
theorem regAt_of_toNat_eq {off : Offset} {r : HostReg} (h : off.toNat = regOffset r) : regAt off = some r := by
  cases r with
  | reg i =>
    have hi := i.isLt
    simp only [regOffset] at h
    have slot : windowSlot 0x100 128 off.toNat = some i := windowSlot_eq_some.2 ⟨by omega, by omega⟩
    rw [regAt_windows (by omega) (by omega), slot]
    rfl
  | rxbyte j =>
    have hj := j.isLt
    simp only [regOffset] at h
    have none_low : windowSlot 0x100 128 off.toNat = none := by
      rw [Option.eq_none_iff_forall_ne_some]
      intro i hi
      have := (windowSlot_eq_some.1 hi).2
      have := i.isLt
      omega
    have slot : windowSlot 0x400 260 off.toNat = some j := windowSlot_eq_some.2 ⟨by omega, by omega⟩
    rw [regAt_windows (by omega) (by omega), none_low, slot]
    rfl
  | _ =>
    have e : off = BitVec.ofNat 12 off.toNat := BitVec.eq_of_toNat_eq (by simp)
    rw [e, h]
    rfl

/-- An offset that names a register is word-aligned. -/
theorem regOffset_aligned (r : HostReg) : regOffset r % 4 = 0 := by
  cases r with
  | reg i => simp only [regOffset]; omega
  | rxbyte j => simp only [regOffset]; omega
  | _ => rfl

/-- The register an offset names stands at that offset. -/
theorem toNat_eq_of_regAt {off : Offset} {r : HostReg} (h : regAt off = some r) : off.toNat = regOffset r := by
  have hal : off.toNat % 4 = 0 := by
    by_contra hal
    simp [regAt, hal] at h
  by_cases hlow : 0x100 ≤ off.toNat
  · rw [regAt_windows hal hlow, Option.or_eq_some_iff] at h
    rcases h with h | ⟨-, h⟩
    · obtain ⟨i, hi, rfl⟩ := Option.map_eq_some_iff.1 h
      obtain ⟨hb, hs⟩ := windowSlot_eq_some.1 hi
      simp only [regOffset]
      omega
    · obtain ⟨j, hj, rfl⟩ := Option.map_eq_some_iff.1 h
      obtain ⟨hb, hs⟩ := windowSlot_eq_some.1 hj
      simp only [regOffset]
      omega
  · have nolow (base size : Nat) (hb : 0x100 ≤ base) : windowSlot base size off.toNat = none := by
      rw [Option.eq_none_iff_forall_ne_some]
      intro i hi
      have := (windowSlot_eq_some.1 hi).1
      omega
    rw [regAt, if_neg (not_not.2 hal), nolow _ _ (by decide), nolow _ _ (by decide)] at h
    simp only [Option.map_none] at h
    repeat (obtain ⟨e, hr⟩ | ⟨-, h⟩ := ite_eq_iff.1 h; · cases hr; rw [e]; rfl)
    cases h

/-- Settles O14: both directions of the map. -/
theorem registerMapIsExact : Obligations.RegisterMapIsExact :=
  fun _ _ => ⟨toNat_eq_of_regAt, regAt_of_toNat_eq⟩

/-! ### Which register an access reaches -/

theorem regReached_word {off : Offset} {r : HostReg} (h : off.toNat = regOffset r) :
    regReached .word off = some r := regAt_of_toNat_eq h

/-- An access that reaches a register is a word access at its offset (R39, R75). -/
theorem regReached_eq_some {width : AccessWidth} {off : Offset} {r : HostReg} (h : regReached width off = some r) :
    width = .word ∧ off.toNat = regOffset r := by
  cases width with
  | word => exact ⟨rfl, toNat_eq_of_regAt h⟩
  | half | byte => cases h

/-- A narrow, misaligned or unmapped access reaches no register. -/
theorem regReached_eq_none {width : AccessWidth} {off : Offset}
    (h : width ≠ .word ∨ off.toNat % 4 ≠ 0 ∨ ∀ r, off.toNat ≠ regOffset r) : regReached width off = none := by
  rw [Option.eq_none_iff_forall_ne_some]
  intro r hr
  obtain ⟨hw, hoff⟩ := regReached_eq_some hr
  rcases h with h | h | h
  · exact h hw
  · exact h (hoff ▸ regOffset_aligned r)
  · exact h r hoff

theorem hostRead_eq_readReg {off : Offset} {r : HostReg} (h : off.toNat = regOffset r) (s : State) :
    hostRead .word off s = readReg s r := by
  simp [hostRead, regReached_word h]

theorem hostRead_unreached {width : AccessWidth} {off : Offset} (h : regReached width off = none) (s : State) :
    hostRead width off s = 0 := by
  simp [hostRead, h]

theorem hostWrite_unreached {width : AccessWidth} {off : Offset} (h : regReached width off = none) (v : Word)
    (s : State) : hostWrite width off v s = .next s := by
  simp [hostWrite, h]

/-- A write that reaches a read-only register has no effect (R39). -/
theorem hostWrite_readOnly {width : AccessWidth} {off : Offset} {r : HostReg} (h : regReached width off = some r)
    (hro : r ∉ ([.cmd, .slave, .addr, .count, .maxregs] : List HostReg)) (v : Word) (s : State) :
    hostWrite width off v s = .next s := by
  unfold hostWrite
  rw [h]
  cases r <;> simp at hro ⊢

/-- Settles O16: such an access reaches no register, or one that a write leaves alone. -/
theorem unmappedAccessHasNoEffect : Obligations.UnmappedAccessHasNoEffect := by
  intro s width off v rest
  refine ⟨fun h => ?_, fun h ha => ?_⟩
  · have zero := hostRead_unreached (regReached_eq_none h)
    refine ⟨zero s, fun ha => ?_⟩
    simp [step, nextStep, ha, runLabel, zero]
  · rw [step_hostWrite ha]
    cases hr : regReached width off with
    | none => exact hostWrite_unreached hr v _
    | some r =>
      obtain ⟨hw, hoff⟩ := regReached_eq_some hr
      have hro : r ∉ ([.cmd, .slave, .addr, .count, .maxregs] : List HostReg) := by
        rcases h with h | h | h | ⟨r', hro, hoff'⟩
        · exact absurd hw h
        · exact absurd (hoff ▸ regOffset_aligned r) h
        · exact absurd hoff (h r)
        · have same : some r' = some r := (regAt_of_toNat_eq hoff').symm.trans (regAt_of_toNat_eq hoff)
          cases same
          exact hro
      exact hostWrite_readOnly hr hro v _

/-! ### The operand registers -/

/-- A field of the low `n` bits of a word, zero-extended, is the word masked to it. -/
theorem setWidth_extract_low (v : Word) (n : Nat) :
    (v.extractLsb' 0 n).setWidth 32 = v &&& BitVec.ofNat 32 (2 ^ n - 1) := by
  refine BitVec.eq_of_getLsbD_eq fun i hi => ?_
  rw [BitVec.getLsbD_setWidth, BitVec.getLsbD_and, BitVec.getLsbD_ofNat, Nat.testBit_two_pow_sub_one]
  simp [hi, Bool.and_comm]

/-- Settles O17: the write stores the field's bits, and the read extends them. -/
theorem operandRegistersReadBack : Obligations.OperandRegistersReadBack := by
  refine ⟨fun s => ⟨rfl, rfl, rfl, rfl⟩, fun s v rest off mask hmem ha => ?_⟩
  simp only [List.mem_cons, Prod.mk.injEq, List.not_mem_nil, or_false] at hmem
  rw [step_hostWrite ha]
  rcases hmem with ⟨rfl, rfl⟩ | ⟨rfl, rfl⟩ | ⟨rfl, rfl⟩ | ⟨rfl, rfl⟩
  · exact ⟨_, rfl, setWidth_extract_low v 8⟩
  · exact ⟨_, rfl, setWidth_extract_low v 16⟩
  · exact ⟨_, rfl, setWidth_extract_low v 16⟩
  · exact ⟨_, rfl, setWidth_extract_low v 8⟩

/-! ### The fields of the words -/

/-- The fields of STATUS (R27). -/
theorem statusWord_fields (f : Status) (st : CtrlState) :
    (statusWord f st).getLsbD 0 = f.busy ∧ (statusWord f st).getLsbD 1 = f.done ∧ (statusWord f st).getLsbD 2 = f.ok ∧
      (statusWord f st).getLsbD 3 = f.cmdErr ∧ (statusWord f st).extractLsb' 4 4 = 0#4 ∧
      (statusWord f st).extractLsb' 8 3 = stateCode st ∧ (statusWord f st).extractLsb' 11 21 = 0#21 := by
  unfold statusWord
  refine ⟨?_, ?_, ?_, ?_, ?_, ?_, ?_⟩
  iterate 4
    · repeat rw [BitVec.getLsbD_append, if_neg (by decide)]
      rw [BitVec.getLsbD_append, if_pos (by decide), BitVec.getLsbD_ofBool]
      simp
  iterate 2
    · repeat rw [BitVec.extractLsb'_append_eq_of_le (by decide)]
      exact BitVec.extractLsb'_append_eq_right
  · repeat rw [BitVec.extractLsb'_append_eq_of_le (by decide)]
    exact BitVec.extractLsb'_eq_self

/-- The fields of RESULT (R32). -/
theorem resultWord_fields (r : Result) :
    (resultWord r).extractLsb' 0 3 = kindCode r.errKind ∧ (resultWord r).extractLsb' 3 5 = 0#5 ∧
      (resultWord r).extractLsb' 8 8 = r.excCode ∧ (resultWord r).extractLsb' 16 8 = r.nRegs ∧
      (resultWord r).extractLsb' 24 8 = 0#8 := by
  unfold resultWord
  refine ⟨?_, ?_, ?_, ?_, ?_⟩
  iterate 4
    · repeat rw [BitVec.extractLsb'_append_eq_of_le (by decide)]
      exact BitVec.extractLsb'_append_eq_right
  · repeat rw [BitVec.extractLsb'_append_eq_of_le (by decide)]
    exact BitVec.extractLsb'_eq_self

/-- The fields of RXINFO (R34). -/
theorem rxInfoWord_fields (rxLen total : BitVec 9) :
    (rxInfoWord rxLen total).extractLsb' 0 9 = rxLen ∧ (rxInfoWord rxLen total).extractLsb' 9 7 = 0#7 ∧
      (rxInfoWord rxLen total).extractLsb' 16 9 = total ∧ (rxInfoWord rxLen total).extractLsb' 25 7 = 0#7 := by
  unfold rxInfoWord
  refine ⟨?_, ?_, ?_, ?_⟩
  iterate 3
    · repeat rw [BitVec.extractLsb'_append_eq_of_le (by decide)]
      exact BitVec.extractLsb'_append_eq_right
  · repeat rw [BitVec.extractLsb'_append_eq_of_le (by decide)]
    exact BitVec.extractLsb'_eq_self

/-- The fields of RXCRC (R35). -/
theorem rxCrcWord_fields (computed received : Half) :
    (rxCrcWord computed received).extractLsb' 0 16 = computed ∧
      (rxCrcWord computed received).extractLsb' 16 16 = received :=
  ⟨BitVec.extractLsb'_append_eq_right, BitVec.extractLsb'_append_eq_left⟩

/-- Settles O18: each word is the one its fields make, and the codes are those of R32 and R40. -/
theorem statusAndResultWordsCarryTheirFields : Obligations.StatusAndResultWordsCarryTheirFields :=
  ⟨⟨rfl, rfl, rfl, rfl, rfl, rfl⟩, ⟨rfl, rfl, rfl, rfl, rfl, rfl⟩, fun s =>
    ⟨statusWord_fields s.status s.state, resultWord_fields s.result, rxInfoWord_fields s.rxLen s.total,
      rxCrcWord_fields s.crcCalc s.crcRecv, rfl, rfl⟩⟩

/-! ### The two windows -/

theorem hostRead_reg (s : State) (i : Fin 128) :
    hostRead .word (BitVec.ofNat 12 (0x100 + 4 * i.val)) s = regView s i.val := by
  refine hostRead_eq_readReg (r := .reg i) ?_ s
  simp only [BitVec.toNat_ofNat, regOffset]
  omega

theorem hostRead_rxbyte (s : State) (j : Fin 260) :
    hostRead .word (BitVec.ofNat 12 (0x400 + 4 * j.val)) s = rxByteView s j.val := by
  refine hostRead_eq_readReg (r := .rxbyte j) ?_ s
  simp only [BitVec.toNat_ofNat, regOffset]
  omega

/-- While a transaction runs and after a failed one NREGS is 0 (R32, R161). -/
theorem BlockInv.nRegs_zero {s : State} (h : BlockInv s) (hs : s.status.busy = true ∨ s.result.errKind ≠ .none) :
    s.result.nRegs = 0 := by
  rcases hs with hb | hk
  · rw [h.result.clear (h.done_off hb)]
    rfl
  · exact h.result.nRegs hk

/-- Settles O19: a slot is below NREGS or reads 0, and NREGS is 0 but after a success. -/
theorem regWindowIsAViewOfTheBuffer : Obligations.RegWindowIsAViewOfTheBuffer := by
  refine ⟨fun s i => hostRead_reg s i, fun s i h hs => ?_⟩
  rw [hostRead_reg, regView, h.nRegs_zero hs]
  exact if_neg (Nat.not_lt_zero _)

/-- Settles O20: a slot is below RXLEN or reads 0, and RXLEN is at most RX_CAP. -/
theorem rxByteWindowIsAViewOfTheBuffer : Obligations.RxByteWindowIsAViewOfTheBuffer := by
  refine ⟨fun s j => hostRead_rxbyte s j, fun s j h hj => ?_⟩
  rw [hostRead_rxbyte, rxByteView]
  exact if_neg (Nat.not_lt.2 (h.buffer.rxLen.trans hj))

/-! ### Right after reset -/

/-- Every register but CRC reads 0 right after reset (R48). -/
theorem readReg_reset (r : HostReg) : readReg State.reset r = if r = .crc then 0x0000FFFF else 0 := by
  cases r with
  | reg i => simp [readReg, regView, State.reset, Result.clear]
  | rxbyte j => simp [readReg, rxByteView, State.reset]
  | _ => rfl

/-- Settles O48: an access that reaches a register reads its reset value, any other reads 0. -/
theorem afterResetOnlyCrcReadsNonzero : Obligations.AfterResetOnlyCrcReadsNonzero := by
  intro width off
  by_cases hcrc : width = .word ∧ off = 0x01C
  · obtain ⟨rfl, rfl⟩ := hcrc
    rfl
  rw [if_neg hcrc]
  cases hr : regReached width off with
  | none => exact hostRead_unreached hr _
  | some r =>
    obtain ⟨rfl, hoff⟩ := regReached_eq_some hr
    have hne : r ≠ .crc := by
      rintro rfl
      exact hcrc ⟨rfl, BitVec.eq_of_toNat_eq hoff⟩
    rw [hostRead_eq_readReg hoff, readReg_reset, if_neg hne]

end Sys2Proof.Machine
end

section
/-! SUPPORT. The receive buffer at or above RXLEN is unobservable (R43): a step of a state with another buffer that agrees
below RXLEN is the step of the state itself, with another buffer that again agrees below RXLEN. -/

namespace Sys2Proof.Machine

/-- The state with the receive buffer `m` in place of its own. -/
def withRx (m : Memory) (s : State) : State := { s with rx := m }

@[simp] theorem withRx_agenda (m : Memory) (s : State) : (withRx m s).agenda = s.agenda := rfl
@[simp] theorem withRx_state (m : Memory) (s : State) : (withRx m s).state = s.state := rfl
@[simp] theorem withRx_rx (m : Memory) (s : State) : (withRx m s).rx = m := rfl
@[simp] theorem withRx_rxLen (m : Memory) (s : State) : (withRx m s).rxLen = s.rxLen := rfl
@[simp] theorem withRx_total (m : Memory) (s : State) : (withRx m s).total = s.total := rfl
@[simp] theorem withRx_cfg (m : Memory) (s : State) : (withRx m s).cfg = s.cfg := rfl
@[simp] theorem withRx_busy (m : Memory) (s : State) : (withRx m s).status.busy = s.status.busy := rfl

/-- The buffer `m` may stand in for that of `s`: it is canonical and holds the same bytes below RXLEN. -/
structure StandsIn (m : Memory) (s : State) : Prop where
  wf : Memory.wf m = true
  same : ∀ j, j < s.rxLen.toNat → Memory.read m j = Memory.read s.rx j

/-- Two outcomes are one next state, but for a buffer that may stand in for its own. -/
def StandInStep (o p : Host.Outcome State Fault Refusal) : Prop :=
  ∃ t m, o = .next t ∧ p = .next (withRx m t) ∧ StandsIn m t

theorem StandsIn.of_eq {m : Memory} {s t : State} (h : StandsIn m s) (hrx : t.rx = s.rx) (hlen : t.rxLen = s.rxLen) :
    StandsIn m t :=
  ⟨h.wf, by rw [hrx, hlen]; exact h.same⟩

/-- A step that writes neither the buffer nor RXLEN, and reads neither. -/
theorem StandsIn.step {m : Memory} {s t : State} {o p : Host.Outcome State Fault Refusal} (h : StandsIn m s)
    (ho : o = .next t) (hp : p = .next (withRx m t)) (hrx : t.rx = s.rx) (hlen : t.rxLen = s.rxLen) : StandInStep o p :=
  ⟨t, m, ho, hp, h.of_eq hrx hlen⟩

/-- A byte stored at RXLEN is stored in both buffers. -/
theorem StandsIn.storedByte {m : Memory} {s : State} (h : StandsIn m s) (hcan : Memory.wf s.rx = true)
    (hlt : s.rxLen.toNat < s.cfg.rxCap) (b : Byte) (rest : List Byte) :
    StandsIn (Memory.write m s.rxLen.toNat b) (storedByte b rest s) where
  wf := Memory.wf_write h.wf _ _
  same := fun j hj => by
    rw [storedByte_rxLen, rxLen_succ hlt] at hj
    rw [storedByte_rx, Memory.read_write h.wf, Memory.read_write hcan]
    split
    · rfl
    · exact h.same j (by omega)

/-! ### What the host reads -/

/-- After a success every register it returned lies below RXLEN, and otherwise none is returned (R32, R181, R221). -/
theorem returned_below_rxLen {s : State} (h : BlockInv s) (ho : OutcomeRecorded s) {i : Nat}
    (hi : i < s.result.nRegs.toNat) : 4 + 2 * i < s.rxLen.toNat := by
  have hk : s.result.errKind = .none := by
    by_contra hk
    simp [h.nRegs_zero (.inr hk)] at hi
  have hd : s.status.done = true := by
    by_contra hd
    simp [h.result.clear (Bool.eq_false_iff.2 hd), Result.clear] at hi
  have out := ho hd
  simp only [hk] at out
  obtain ⟨hlen, hacc, -, -, hn⟩ := out
  have htot := hacc.total
  simp only [carriedRegs, totalLength, hdrLen, crcLen] at hn htot
  rw [hlen]
  omega

/-- The host reads the same words with a buffer that stands in. -/
theorem hostRead_withRx {m : Memory} {s : State} (h : StandsIn m s)
    (hreg : ∀ i, i < s.result.nRegs.toNat → 4 + 2 * i < s.rxLen.toNat) (width : AccessWidth) (off : Offset) :
    hostRead width off (withRx m s) = hostRead width off s := by
  unfold hostRead
  cases hr : regReached width off with
  | none => rfl
  | some r =>
    cases r with
    | reg i =>
      refine ite_congr rfl (fun hi => ?_) fun _ => rfl
      have hlt := hreg i hi
      simp only [frameReg, withRx_rx, h.same (3 + 2 * i.val) (by omega), h.same (4 + 2 * i.val) hlt]
    | rxbyte j => exact ite_congr rfl (fun hj => congrArg _ (h.same j hj)) fun _ => rfl
    | _ => rfl

/-! ### What a step does -/

theorem internalEnabled_withRx (m : Memory) (s : State) : internalEnabled (withRx m s) = internalEnabled s := rfl

theorem tickTimers_withRx (m : Memory) (s : State) : tickTimers (withRx m s) = withRx m (tickTimers s) := by
  simp only [tickTimers, withRx_state]
  split <;> rfl

theorem recordCrcs_withRx {m : Memory} {s : State} (h : StandsIn m s) (hlen : s.rxLen = s.total)
    (hpos : 0 < s.rxLen.toNat) : recordCrcs (withRx m s) = withRx m (recordCrcs s) := by
  rw [hlen] at hpos
  have same (j : Nat) (hj : j < s.total.toNat) : Memory.read m j = Memory.read s.rx j := h.same j (hlen ▸ hj)
  have bytes : rxBytes m (s.total.toNat - crcLen) = rxBytes s.rx (s.total.toNat - crcLen) :=
    List.map_congr_left fun j hj => same j (by have := List.mem_range.1 hj; omega)
  simp only [recordCrcs, withRx_rx, withRx_total, bytes, same _ (Nat.sub_lt hpos Nat.one_pos),
    same _ (Nat.sub_lt hpos Nat.two_pos)]
  rfl

/-- The check of a frame reads the buffer below RXLEN alone. -/
theorem checkFrame_withRx {m : Memory} {s : State} (h : StandsIn m s) (hlen : s.rxLen = s.total)
    (hhdr : hdrLen ≤ s.rxLen.toNat) : checkFrame (withRx m s) = withRx m (checkFrame s) := by
  have hpos : 0 < s.rxLen.toNat := Nat.lt_of_lt_of_le (by decide) hhdr
  have hret : returnedRegs (withRx m (recordCrcs s)) = returnedRegs (recordCrcs s) := by
    simp only [returnedRegs, withRx_rx, h.same 2 (Nat.lt_of_lt_of_le (by decide) hhdr)]
    rfl
  simp only [checkFrame, recordCrcs_withRx h hlen hpos, hret, apply_ite (withRx m)]
  rfl

/-- No instruction reads the buffer, and none but an acceptance moves RXLEN, which it clears. -/
theorem standIn_exec {m : Memory} {s : State} (h : StandsIn m s) (i : Instr) :
    StandInStep (exec i s) (exec i (withRx m s)) := by
  cases i with
  | crcInit | crcByte | illegalCmd | req8 | rspx => exact h.step rfl rfl rfl rfl
  | readHolding =>
    by_cases hb : s.status.busy = true
    · rw [exec_readHolding_busy hb, exec_readHolding_busy (s := withRx m s) hb]
      exact h.step rfl rfl rfl rfl
    · have hb := Bool.eq_false_iff.2 hb
      rw [exec_readHolding_accepted hb, exec_readHolding_accepted (s := withRx m s) hb]
      exact ⟨_, m, rfl, rfl, h.wf, fun _ hj => absurd hj (Nat.not_lt_zero _)⟩
  | rspn slaveId fc byteCount =>
    by_cases hl : s.cfg.rxCap < totalLength byteCount
    · rw [exec_rspn_tooLarge hl, exec_rspn_tooLarge (s := withRx m s) hl]
      exact h.step rfl rfl rfl rfl
    · have hl := Nat.not_lt.1 hl
      rw [exec_rspn_fits hl, exec_rspn_fits (s := withRx m s) hl]
      exact h.step rfl rfl rfl rfl

/-- The header bytes are read below RXLEN = 3. -/
theorem standIn_afterHeaderByte {m : Memory} {s : State} (h : StandsIn m s) :
    StandInStep (afterHeaderByte s) (afterHeaderByte (withRx m s)) := by
  unfold afterHeaderByte
  rw [withRx_rxLen]
  split
  · next h3 =>
    have same (j : Nat) (hj : j < hdrLen) : Memory.read m j = Memory.read s.rx j := h.same j (h3 ▸ hj)
    simp only [examineHeader, withRx_rx, same 0 (by decide), same 1 (by decide), same 2 (by decide)]
    exact standIn_exec h _
  · exact h.step rfl rfl rfl rfl

theorem standIn_afterBodyByte {m : Memory} {s : State} (h : StandsIn m s) (hhdr : hdrLen ≤ s.rxLen.toNat) :
    StandInStep (afterBodyByte s) (afterBodyByte (withRx m s)) := by
  unfold afterBodyByte
  rw [withRx_rxLen, withRx_total]
  split
  · next hlen =>
    rw [checkFrame_withRx h hlen hhdr]
    exact h.step rfl rfl (checkFrame_rx s) (checkFrame_rxLen s)
  · exact h.step rfl rfl rfl rfl

theorem standIn_internalStep {m : Memory} {s : State} (hi : BlockInv s) (h : StandsIn m s) :
    StandInStep (internalStep s) (internalStep (withRx m s)) := by
  cases he : internalEnabled s with
  | false =>
    rw [internalStep_disabled he, internalStep_disabled (s := withRx m s) he]
    exact h.step rfl rfl rfl rfl
  | true =>
    rcases (internalEnabled_iff s).1 he with ⟨hst, hT⟩ | ⟨hst, hidx, hr⟩ | ⟨hst, hT⟩ | ⟨hst, hev⟩
    · rw [internalStep_preDelay hst hT, internalStep_preDelay (s := withRx m s) hst hT]
      exact h.step rfl rfl rfl rfl
    · rw [internalStep_tx hst hidx hr, internalStep_tx (s := withRx m s) hst hidx hr]
      exact h.step rfl rfl rfl rfl
    · rw [internalStep_postDelay hst hT, internalStep_postDelay (s := withRx m s) hst hT]
      exact h.step rfl rfl rfl rfl
    · have hlt := hi.store_in_bounds hst
      by_cases hT : tRespMs ≤ s.elapsed
      · rcases hst with hst | hst
        · rw [internalStep_headerTimeout hst hT, internalStep_headerTimeout (s := withRx m s) hst hT]
          exact h.step rfl rfl rfl rfl
        · rw [internalStep_bodyTimeout hst hT, internalStep_bodyTimeout (s := withRx m s) hst hT]
          exact h.step rfl rfl rfl rfl
      · obtain ⟨b, rest, hq⟩ := List.exists_cons_of_ne_nil (hev.resolve_left hT)
        have hT := Nat.not_le.1 hT
        have stored := h.storedByte hi.buffer.canonical hlt b rest
        rcases hst with hst | hst
        · rw [internalStep_headerPop hst hT hq hlt, internalStep_headerPop (s := withRx m s) hst hT hq hlt]
          exact standIn_afterHeaderByte stored
        · rw [internalStep_bodyPop hst hT hq hlt, internalStep_bodyPop (s := withRx m s) hst hT hq hlt]
          refine standIn_afterBodyByte stored ?_
          rw [storedByte_rxLen, rxLen_succ hlt]
          exact Nat.le_succ_of_le (hi.phase_rxBody hst).2.1

theorem standIn_hostWrite {m : Memory} {s : State} (h : StandsIn m s) (width : AccessWidth) (off : Offset) (v : Word) :
    StandInStep (hostWrite width off v s) (hostWrite width off v (withRx m s)) := by
  unfold hostWrite
  split
  · exact standIn_exec h (decodeCmd v)
  all_goals exact h.step rfl rfl rfl rfl

theorem standIn_runLabel {m : Memory} {s : State} (hi : BlockInv s) (h : StandsIn m s)
    (hreg : ∀ i, i < s.result.nRegs.toNat → 4 + 2 * i < s.rxLen.toNat) (l : Label) :
    StandInStep (runLabel l s) (runLabel l (withRx m s)) := by
  cases l with
  | hostWrite width off v => exact standIn_hostWrite h width off v
  | hostRead width off =>
    simp only [runLabel, hostRead_withRx h hreg]
    exact h.step rfl rfl rfl rfl
  | rxArrive b => exact h.step rfl rfl rfl rfl
  | txReady ready => exact h.step rfl rfl rfl rfl
  | txComplete =>
    show StandInStep (if txCompleteEnabled s then _ else _) (if txCompleteEnabled s then _ else _)
    split
    · exact h.step rfl rfl rfl rfl
    · exact h.step rfl rfl rfl rfl
  | internal => exact standIn_internalStep hi h
  | tick =>
    simp only [runLabel, tickTimers_withRx]
    exact h.step rfl rfl (by rw [tickTimers_eq]) (by rw [tickTimers_eq])
  | reset => exact ⟨_, [], rfl, rfl, rfl, fun j hj => rfl⟩

/-- A step with a buffer that stands in. -/
theorem standIn_step {m : Memory} {s : State} (hi : BlockInv s) (ho : OutcomeRecorded s) (h : StandsIn m s) :
    StandInStep (step s) (step (withRx m s)) := by
  have hreg := fun i => returned_below_rxLen hi ho (i := i)
  unfold step nextStep
  rw [withRx_agenda, internalEnabled_withRx]
  cases s.agenda with
  | nil =>
    simp only [runAlone, internalEnabled_withRx, tickTimers_withRx]
    split
    · exact standIn_internalStep hi h
    · exact h.step rfl rfl (by rw [tickTimers_eq]) (by rw [tickTimers_eq])
  | cons l rest =>
    dsimp only
    split
    · exact standIn_internalStep hi h
    · exact standIn_runLabel (s := { s with agenda := rest }) (hi.of_invariantPart_eq rfl) ⟨h.wf, h.same⟩ hreg l

/-- Settles O57: the second state is the first with a buffer that stands in for its own. -/
theorem bufferAboveRxLenIsUnobservable : Obligations.BufferAboveRxLenIsUnobservable := by
  intro s u hi ho hwf ⟨hu, hsame⟩
  have h : StandsIn u.rx s := ⟨hwf, hsame⟩
  have hu : u = withRx u.rx s := hu
  refine ⟨fun width off => ?_, ?_⟩
  · rw [hu]
    exact (hostRead_withRx h (fun i => returned_below_rxLen hi ho) width off).symm
  · obtain ⟨t, m, ht, hv, hm⟩ := standIn_step hi ho h
    exact ⟨t, withRx m t, ht, hu ▸ hv, hm.wf, rfl, hm.same⟩

end Sys2Proof.Machine
end

section
/-! SUPPORT. What single steps write and leave alone: the accumulator, the latches, the inbound queue, the bytes sent; which
steps come before a Tick; and the request's way out with no delay. -/

namespace Sys2Proof.Machine

/-! ### The accumulator, the latches and the inbound queue -/

/-- Settles O21: of the steps `step_cases` lists only a command and Reset write CRC_ACC. -/
theorem onlyCrcCommandsWriteTheAccumulator : Obligations.OnlyCrcCommandsWriteTheAccumulator := by
  refine ⟨fun _ => rfl, rfl, fun s t h => ?_⟩
  cases step_cases h with
  | urgent _ hstep | internal _ _ _ hstep =>
    left
    rw [hstep.frame]
  | idleTick | tick => exact .inl (tickTimers_crcAcc _)
  | command width off w rest _ ha hr hx =>
    obtain ⟨rfl, rfl⟩ := regReached_cmd hr
    cases decodedCommand_cases hx with
    | init h1 => exact .inr (.inr ⟨w, rest, ha, .inl ⟨h1, rfl⟩⟩)
    | byte h2 => exact .inr (.inr ⟨w, rest, ha, .inr ⟨h2, rfl⟩⟩)
    | accepted | rejected => exact .inl rfl
  | reset rest ha => exact .inr (.inl ⟨rest, ha⟩)
  | internalNone | operand | read | arrive | ready | complete | completeNone => exact .inl rfl

/-- Settles O55: the one step that latches and frames is an acceptance, which BUSY excludes. -/
theorem operandWritesNeverReachTheTransactionInFlight : Obligations.OperandWritesNeverReachTheTransactionInFlight := by
  intro s t hb h hreset
  cases step_cases h with
  | urgent _ hstep | internal _ _ _ hstep =>
    rw [hstep.frame]
    exact ⟨rfl, rfl, rfl, rfl⟩
  | idleTick | tick => simp
  | command _ _ _ _ _ _ _ hx =>
    cases command_cases hx with
    | setCrc | rejected => exact ⟨rfl, rfl, rfl, rfl⟩
    | accepted hidle => exact absurd (hb.symm.trans hidle) (by decide)
  | reset rest ha => exact absurd ha (hreset rest)
  | internalNone | operand | read | arrive | ready | complete | completeNone => exact ⟨rfl, rfl, rfl, rfl⟩

/-- An internal step leaves the queue as it was, or pops its head in a reception before the deadline. -/
theorem InternalStep.inq_cases {s t : State} (h : InternalStep s t) :
    t.inq = s.inq ∨ (Receiving s ∧ ∃ b, s.inq = b :: t.inq ∧ t.rxLen = s.rxLen + 1 ∧
      t.rx = Memory.write s.rx s.rxLen.toNat b) := by
  by_cases hr : Receiving s
  · exact .inr ⟨hr, h.pops hr⟩
  · exact .inl (h.keeps_inq hr)

/-- Settles O56: of the steps `step_cases` lists only an arrival, an acceptance and a pop change the queue. -/
theorem inboundQueueLosesBytesOnlyToFlushOrPop : Obligations.InboundQueueLosesBytesOnlyToFlushOrPop := by
  refine ⟨fun s b rest ha => by simp [step, nextStep, ha, runLabel], fun s t h => ?_⟩
  cases step_cases h with
  | urgent _ hstep | internal _ _ _ hstep =>
    rcases hstep.inq_cases with hq | ⟨⟨hst, hT⟩, hpop⟩
    · exact .inl hq
    · exact .inr (.inr (.inr ⟨hst, hT, hpop⟩))
  | idleTick | tick => exact .inl (tickTimers_inq _)
  | command width off w rest _ ha hr hx =>
    obtain ⟨rfl, rfl⟩ := regReached_cmd hr
    cases decodedCommand_cases hx with
    | accepted h3 hb => exact .inr (.inr (.inl ⟨w, rest, ha, h3, hb, rfl, rfl⟩))
    | init | byte | rejected => exact .inl rfl
  | arrive b rest ha => exact .inr (.inl ⟨b, rest, ha, rfl⟩)
  | internalNone | operand | read | ready | complete | completeNone | reset => exact .inl rfl

/-- Settles O60: the label is next, and its effect is the one field it names. -/
theorem readinessLabelSetsOnlyReadiness : Obligations.ReadinessLabelSetsOnlyReadiness := by
  intro s ready rest ha
  simp [step, nextStep, ha, runLabel]

/-! ### The bytes sent -/

theorem reqByte_eq {s : State} {i : Nat} (h : i < 8) : reqByte s i = s.req[i] := dif_pos h

/-- An internal step that hands over a byte does so with DE = 1, and the byte is the request's next. -/
theorem InternalStep.pushes_while_driving {s t : State} (h : InternalStep s t) (hi : BlockInv s) :
    t.sent = s.sent ∨
      (s.state = .tx ∧ s.de = true ∧ t.de = true ∧ ∃ hlt : s.txIdx.toNat < 8,
        t.sent = s.sent ++ [s.req[s.txIdx.toNat]] ∧ t.txIdx = s.txIdx + 1) := by
  rcases h.sent_cases with hs | ⟨hst, hlt, rfl⟩
  · exact .inl hs
  · have hde := hi.flags.de.2 hst
    exact .inr ⟨hst, hde, hde, hlt, by rw [pushByte_sent, reqByte_eq hlt], rfl⟩

/-- Settles O30: only an internal step hands over a byte. -/
theorem bytesArePushedOnlyWhileDriving : Obligations.BytesArePushedOnlyWhileDriving := by
  intro s t hi h
  cases step_cases h with
  | urgent _ hstep => exact hstep.pushes_while_driving hi
  | internal rest _ _ hstep => exact hstep.pushes_while_driving (hi.of_invariantPart_eq rfl)
  | idleTick | tick => exact .inl (tickTimers_sent _)
  | command _ _ _ _ _ _ _ hx =>
    cases command_cases hx with
    | setCrc | rejected | accepted => exact .inl rfl
  | internalNone | operand | read | arrive | ready | complete | completeNone | reset => exact .inl rfl

/-! ### Urgency -/

theorem afterHeaderByte_answers (s : State) : ∃ t, afterHeaderByte s = .next t := by
  unfold afterHeaderByte
  split
  · exact exec_answers_next _ s
  · exact ⟨s, rfl⟩

theorem afterBodyByte_answers (s : State) : ∃ t, afterBodyByte s = .next t := by
  unfold afterBodyByte
  split
  · exact ⟨_, rfl⟩
  · exact ⟨s, rfl⟩

/-- From a state that meets the invariant an internal step answers a next state: its store is inside the buffer (R79). -/
theorem BlockInv.internalStep_answers {s : State} (hi : BlockInv s) : ∃ t, internalStep s = .next t := by
  cases he : internalEnabled s with
  | false => exact ⟨s, internalStep_disabled he⟩
  | true =>
    rcases (internalEnabled_iff s).1 he with ⟨hst, hT⟩ | ⟨hst, hidx, hr⟩ | ⟨hst, hT⟩ | ⟨hst, hev⟩
    · exact ⟨_, internalStep_preDelay hst hT⟩
    · exact ⟨_, internalStep_tx hst hidx hr⟩
    · exact ⟨_, internalStep_postDelay hst hT⟩
    · have hlt := hi.store_in_bounds hst
      by_cases hT : tRespMs ≤ s.elapsed
      · rcases hst with hst | hst
        · exact ⟨_, internalStep_headerTimeout hst hT⟩
        · exact ⟨_, internalStep_bodyTimeout hst hT⟩
      · obtain ⟨b, rest, hq⟩ := List.exists_cons_of_ne_nil (hev.resolve_left hT)
        have hT := Nat.not_le.1 hT
        rcases hst with hst | hst
        · rw [internalStep_headerPop hst hT hq hlt]
          exact afterHeaderByte_answers _
        · rw [internalStep_bodyPop hst hT hq hlt]
          exact afterBodyByte_answers _

/-- A Tick that waits: the step is a row of R192. -/
theorem BlockInv.step_tick_waits {s : State} {rest : List Label} (hi : BlockInv s) (ha : s.agenda = .tick :: rest)
    (he : internalEnabled s = true) : ∃ t, step s = .next t ∧ InternalStep s t := by
  obtain ⟨t, ht⟩ := hi.internalStep_answers
  exact ⟨t, (Machine.step_tick_waits ha he).trans ht, internalStep_cases he ht⟩

/-- Settles O35: a Tick waits for the internal step, which before the deadline is the pop of the waiting byte. -/
theorem internalStepsAreUrgent : Obligations.InternalStepsAreUrgent := by
  refine ⟨internalEnabled_iff, fun s rest ha he => ?_, fun s rest b q hi ha hst hT hq => ?_⟩
  · exact (step_tick_waits ha he).trans (step_internal (s := { s with agenda := .internal :: s.agenda }) rfl).symm
  · have he : internalEnabled s = true := (internalEnabled_iff s).2 (.inr (.inr (.inr ⟨hst, .inr (by simp [hq])⟩)))
    obtain ⟨t, ht, hstep⟩ := hi.step_tick_waits ha he
    obtain ⟨b', hpop, -, -⟩ := hstep.pops ⟨hst, hT⟩
    have hq' : b :: q = b' :: t.inq := hq.symm.trans hpop
    exact ⟨t, ht, (List.cons.inj hq').2.symm, by rw [hstep.frame], by rw [hstep.frame]⟩

/-! ### The request leaves before a Tick -/

/-- `n` pushes hand over the request's next `n` bytes and write nothing else but TXIDX (R166). -/
theorem pushByte_iterate (n : Nat) : ∀ s : State, s.txIdx.toNat + n ≤ 8 →
    pushByte^[n] s =
      { s with
        sent := s.sent ++ (s.req.toList.drop s.txIdx.toNat).take n, txIdx := s.txIdx + BitVec.ofNat 4 n } := by
  induction n with
  | zero => intro s _; simp
  | succ n ih =>
    intro s hn
    have hlt : s.txIdx.toNat < 8 := by omega
    have hidx : (pushByte s).txIdx.toNat = s.txIdx.toNat + 1 := txIdx_succ hlt
    have hlen : s.txIdx.toNat < s.req.toList.length := by simpa using hlt
    have hbytes : [reqByte s s.txIdx.toNat] ++ (s.req.toList.drop (s.txIdx.toNat + 1)).take n =
        (s.req.toList.drop s.txIdx.toNat).take (n + 1) := by
      rw [List.drop_eq_getElem_cons hlen, reqByte_eq hlt]
      simp
    have hcount : s.txIdx + 1 + BitVec.ofNat 4 n = s.txIdx + BitVec.ofNat 4 (n + 1) := by
      rw [BitVec.add_assoc, Nat.add_comm n 1]
      exact congrArg _ (BitVec.ofNat_add 1 n).symm
    rw [Function.iterate_succ_apply, ih (pushByte s) (by omega), hidx]
    simp only [pushByte, List.append_assoc, hbytes, hcount]

/-- With a Tick waiting, a ready transport takes the request's bytes, one a step. -/
theorem runSteps_pushes (n : Nat) {rest : List Label} : ∀ s : State, s.state = .tx → s.txReady = true →
    s.agenda = .tick :: rest → s.txIdx.toNat + n ≤ 8 → runSteps n s = .next (pushByte^[n] s) := by
  induction n with
  | zero => intros; rfl
  | succ n ih =>
    intro s hst hr ha hn
    have hlt : s.txIdx.toNat < reqLen := by simp only [reqLen]; omega
    have he : internalEnabled s = true := (internalEnabled_iff s).2 (.inr (.inl ⟨hst, hlt, hr⟩))
    have hstep : step s = .next (pushByte s) := (step_tick_waits ha he).trans (internalStep_tx hst hlt hr)
    have hidx : (pushByte s).txIdx.toNat = s.txIdx.toNat + 1 := txIdx_succ hlt
    rw [runSteps_succ hstep, Function.iterate_succ_apply]
    exact ih (pushByte s) hst hr ha (by omega)

/-- In TX a transport that is not ready lets Ticks pass, which change nothing (R171). -/
theorem runSteps_ticks_tx (n : Nat) {rest : List Label} : ∀ s : State, s.state = .tx → s.txReady = false →
    s.agenda = List.replicate n .tick ++ rest → runSteps n s = .next { s with agenda := rest } := by
  induction n with
  | zero =>
    rintro s - - ha
    cases ha
    rfl
  | succ n ih =>
    intro s hst hr ha
    have he : internalEnabled s = false := by simp [internalEnabled, hst, hr]
    have hstep := step_tick (rest := List.replicate n .tick ++ rest) ha he
    rw [tickTimers_tx (s := { s with agenda := List.replicate n .tick ++ rest }) hst] at hstep
    rw [runSteps_succ hstep]
    exact ih { s with agenda := List.replicate n .tick ++ rest } hst hr rfl

/-- With a Tick waiting and the delay over, the whole request leaves in nine steps. -/
theorem runSteps_request {s : State} {rest : List Label} (hst : s.state = .preDelay) (hT : s.cfg.tPreMs ≤ s.tmr)
    (hr : s.txReady = true) (ha : s.agenda = .tick :: rest) (hidx : s.txIdx = 0) :
    runSteps 9 s = .next { s with state := .tx, de := true, sent := s.sent ++ s.req.toList, txIdx := 8 } := by
  have hbegin : step s = .next (beginTransmit s) :=
    (step_tick_waits ha ((internalEnabled_iff s).2 (.inl ⟨hst, hT⟩))).trans (internalStep_preDelay hst hT)
  have hfrom : (beginTransmit s).txIdx.toNat = 0 := congrArg BitVec.toNat hidx
  have hall : s.req.toList.take 8 = s.req.toList := List.take_of_length_le (by simp)
  rw [runSteps_succ hbegin, runSteps_pushes 8 (beginTransmit s) rfl hr ha (by omega),
    pushByte_iterate 8 (beginTransmit s) (by omega), hfrom]
  simp [beginTransmit, hidx, hall]

/-- Settles O28: acceptance, the end of a delay of 0 ms, then eight pushes, with the Tick waiting throughout. -/
theorem zeroPreDelaySendsBeforeAnyTick : Obligations.ZeroPreDelaySendsBeforeAnyTick := by
  refine ⟨fun s rest hb hpre hr ha => ?_, fun s n rest hst hr ha => runSteps_ticks_tx n s hst hr ha⟩
  have haccept : step s = .next (acceptTransaction { s with agenda := .tick :: rest }) :=
    (step_hostWrite ha).trans (exec_readHolding_accepted (s := { s with agenda := .tick :: rest }) hb)
  have hsend := runSteps_request (s := acceptTransaction { s with agenda := .tick :: rest }) rfl hpre.le hr rfl rfl
  exact ⟨_, (runSteps_succ haccept 9).trans hsend, rfl, rfl, rfl, rfl, rfl⟩

end Sys2Proof.Machine
end

section
/-! SUPPORT. The deadline window (R168, R191): what one step does to the Ticks that are left, and how long the window stays open
when nothing but Ticks comes. -/

namespace Sys2Proof.Machine

/-- The transaction is over: BUSY is clear, DONE is set and the controller is back in IDLE (R190). -/
def Completed (t : State) : Prop := t.state = .idle ∧ t.status.done = true ∧ t.status.busy = false

/-- The internal steps the block can take in the window before a Tick or an arrival: the end of POST_DELAY and a pop for each
byte that waits. -/
def pendingSteps (s : State) : Nat := s.inq.length + if s.state = .postDelay then 1 else 0

theorem completed_finish (k : ErrKind) (e n : Byte) (s : State) : Completed (finish k e n s) := ⟨rfl, rfl, rfl⟩

theorem completed_checkFrame (s : State) : Completed (checkFrame s) :=
  ⟨checkFrame_state s, checkFrame_done s, checkFrame_busy s⟩

/-- No transaction that is in the window is idle. -/
theorem InWindow.ne_idle {s : State} (h : InWindow s) : s.state ≠ .idle := by
  rcases h with h | h | h <;> simp [h]

theorem ticksLeft_le {s : State} (h : InWindow s) : ticksLeft s ≤ max s.cfg.tPostMs tRespMs := by
  rcases h with h | h
  · rw [ticksLeft_postDelay h]
    omega
  · rw [ticksLeft_reception h]
    omega

/-! ### One step -/

/-- A TxComplete that is enabled ends the transmission (R167). -/
theorem step_txComplete {s : State} {rest : List Label} (ha : s.agenda = .txComplete :: rest)
    (he : txCompleteEnabled s = true) : step s = .next (endTransmit { s with agenda := rest }) := by
  have hrun : step s = runLabel .txComplete { s with agenda := rest } := by simp [step, nextStep, ha]
  exact hrun.trans (if_pos he)

/-- In the window an internal step completes the transaction, or uses up one of the pending steps and no Tick. -/
theorem InternalStep.in_window {s t : State} (h : InternalStep s t) (hw : InWindow s) :
    Completed t ∨ (InWindow t ∧ ticksLeft t = ticksLeft s ∧ pendingSteps t < pendingSteps s) := by
  cases h with
  | beginTransmit hst | push hst => simp [InWindow, hst] at hw
  | beginReceive hst hT =>
    refine .inr ⟨.inr (.inl rfl), ?_, by simp [pendingSteps, hst]⟩
    rw [ticksLeft_postDelay hst, ticksLeft_reception (.inl rfl), Nat.sub_eq_zero_of_le hT, Nat.zero_max]
    rfl
  | headerTimeout | bodyTimeout | exception | tooLarge => exact .inl (completed_finish _ _ _ _)
  | lastByte => exact .inl (completed_checkFrame _)
  | headerByte b rest hst _ hq | bodyByte b rest hst _ hq =>
    exact .inr ⟨hw, rfl, by simp [pendingSteps, hq, hst]⟩
  | acceptHeader b rest hst _ hq =>
    refine .inr ⟨.inr (.inr rfl), ?_, by simp [pendingSteps, hq, hst]⟩
    rw [ticksLeft_reception (.inr rfl), ticksLeft_reception (.inl hst)]
    rfl

/-- In the window a Tick that passes is one of those left. -/
theorem ticksLeft_tickTimers {s : State} (hw : InWindow s) (he : internalEnabled s = false) :
    InWindow (tickTimers s) ∧ ticksLeft (tickTimers s) + 1 = ticksLeft s := by
  refine ⟨by simpa only [InWindow, tickTimers_state] using hw, ?_⟩
  rcases hw with hst | hst
  · have hT : s.tmr < s.cfg.tPostMs := by simpa [internalEnabled, hst] using he
    rw [ticksLeft_postDelay hst, ticksLeft_postDelay (by simpa using hst), tickTimers_postDelay hst]
    simp only [tickElapsed_cfg, tickElapsed_tmr, tickElapsed_elapsed, tickTmr_cfg, tickTmr_tmr, tickTmr_elapsed, tmrLimit]
    omega
  · have hT : s.elapsed < tRespMs := by
      by_contra hT
      simp [(internalEnabled_iff s).2 (.inr (.inr (.inr ⟨hst, .inl (Nat.not_lt.1 hT)⟩)))] at he
    rw [ticksLeft_reception hst, ticksLeft_reception (by simpa using hst), tickTimers_reception hst]
    simp only [tickElapsed_elapsed]
    omega

theorem takesTick_of_enabled {s : State} (h : internalEnabled s = true) : takesTick s = false := by
  simp [takesTick, h]

theorem takesTick_of_head {s : State} {l : Label} {rest : List Label} (ha : s.agenda = l :: rest) (hl : l ≠ .tick) :
    takesTick s = false := by
  simp [takesTick, ha, hl]

/-- A step that takes no Tick, in the terms of the window. -/
def KeepsWindow (s t : State) : Prop := Completed t ∨ (InWindow t ∧ ticksLeft t = ticksLeft s)

theorem InternalStep.keepsWindow {s t : State} (h : InternalStep s t) (hw : InWindow s) : KeepsWindow s t :=
  (h.in_window hw).imp id fun ⟨hwt, hl, _⟩ => ⟨hwt, hl⟩

/-- In the window no READ_HOLDING is accepted, so no command touches it. -/
theorem CommandStep.keepsWindow {s t : State} (h : CommandStep s t) (hi : BlockInv s) (hw : InWindow s) :
    KeepsWindow s t := by
  cases h with
  | setCrc | rejected => exact .inr ⟨hw, rfl⟩
  | accepted hb => exact absurd (hi.idle_of_not_busy hb) hw.ne_idle

/-- What a step that is no Reset does to the window. -/
theorem StepCase.in_window {s t : State} (h : StepCase s t) (hi : BlockInv s) (hw : InWindow s)
    (hreset : ∀ rest, s.agenda ≠ .reset :: rest) :
    (takesTick s = false ∧ KeepsWindow s t) ∨
      (takesTick s = true ∧ InWindow t ∧ ticksLeft t + 1 = ticksLeft s) := by
  have tail (rest : List Label) : BlockInv { s with agenda := rest } := hi.of_invariantPart_eq rfl
  cases h with
  | urgent _ hstep => exact .inl ⟨takesTick_of_enabled hstep.enabled, hstep.keepsWindow hw⟩
  | internal rest _ ha hstep =>
    exact .inl ⟨takesTick_of_head ha nofun, hstep.keepsWindow (s := { s with agenda := rest }) hw⟩
  | idleTick ha he => exact .inr ⟨by simp [takesTick, ha, he], ticksLeft_tickTimers hw he⟩
  | tick rest ha he =>
    exact .inr ⟨by simp [takesTick, ha, he], ticksLeft_tickTimers (s := { s with agenda := rest }) hw he⟩
  | command _ _ _ rest _ ha _ hx =>
    exact .inl ⟨takesTick_of_head ha nofun, (command_cases hx).keepsWindow (tail rest) hw⟩
  | complete _ ha he =>
    simp only [txCompleteEnabled, Bool.and_eq_true, decide_eq_true_eq] at he
    simp [InWindow, he.1] at hw
  | reset rest ha => exact absurd ha (hreset rest)
  | operand _ _ _ _ _ ha => exact .inl ⟨takesTick_of_head ha nofun, .inr ⟨hw, rfl⟩⟩
  | internalNone _ ha | read _ _ _ ha | arrive _ _ ha | ready _ _ ha | completeNone _ ha =>
    exact .inl ⟨takesTick_of_head ha nofun, .inr ⟨hw, rfl⟩⟩

/-- Settles O58: the opening of the window, then what each step does to it. -/
theorem windowTicksAreBounded : Obligations.WindowTicksAreBounded := by
  refine ⟨fun s rest ha hst hidx => ?_, fun s t hi hw hreset h => ?_⟩
  · have he : txCompleteEnabled s = true := by simp [txCompleteEnabled, hst, hidx, reqLen]
    exact ⟨_, step_txComplete ha he, .inl rfl, ticksLeft_postDelay rfl⟩
  · rcases (step_cases h).in_window hi hw hreset with ⟨hno, hdone | ⟨hwt, hl⟩⟩ | ⟨hyes, hwt, hl⟩
    · obtain ⟨hst, hd, hb⟩ := hdone
      exact .inl ⟨hst, hd, hb, hno⟩
    · exact .inr ⟨hwt, by simp [hno, hl]⟩
    · exact .inr ⟨hwt, by simp [hyes, hl]⟩

/-! ### A whole window with nothing but Ticks to come -/

/-- With a Tick next, a step in the window completes the transaction, or uses up a pending step, or is the Tick. -/
theorem window_step_before_tick {s : State} {rest : List Label} (hi : BlockInv s) (hw : InWindow s)
    (ha : s.agenda = .tick :: rest) :
    ∃ t, step s = .next t ∧ BlockInv t ∧
      ((Completed t ∧ t.agenda = s.agenda) ∨
        (InWindow t ∧ t.agenda = s.agenda ∧ ticksLeft t = ticksLeft s ∧ pendingSteps t < pendingSteps s) ∨
        (InWindow t ∧ t.agenda = rest ∧ ticksLeft t + 1 = ticksLeft s ∧ pendingSteps t = pendingSteps s)) := by
  cases he : internalEnabled s with
  | true =>
    obtain ⟨t, ht, hstep⟩ := hi.step_tick_waits ha he
    have hag : t.agenda = s.agenda := by rw [hstep.frame]
    refine ⟨t, ht, hstep.keeps_blockInv hi, ?_⟩
    rcases hstep.in_window hw with hdone | ⟨hwt, hl, hp⟩
    · exact .inl ⟨hdone, hag⟩
    · exact .inr (.inl ⟨hwt, hag, hl, hp⟩)
  | false =>
    have ht := step_tick ha he
    obtain ⟨hwt, hl⟩ := ticksLeft_tickTimers (s := { s with agenda := rest }) hw he
    exact ⟨_, ht, stepKeepsTheInvariant s _ hi ht, .inr (.inr ⟨hwt, by simp, hl, by simp [pendingSteps]⟩)⟩

/-- With more Ticks on the agenda than are left, the transaction completes before the last of them, within the Ticks left,
the pending steps and one more. -/
theorem window_completes {rest : List Label} (s : State) (hi : BlockInv s) (hw : InWindow s) (spare : Nat)
    (ha : s.agenda = List.replicate (ticksLeft s + spare + 1) .tick ++ rest) :
    ∃ k m t, k ≤ ticksLeft s + pendingSteps s + 1 ∧ runSteps k s = .next t ∧
      t.agenda = List.replicate (m + 1) .tick ++ rest ∧ Completed t := by
  induction hn : ticksLeft s + pendingSteps s using Nat.strong_induction_on generalizing s with
  | _ n ih =>
    have hhead : s.agenda = .tick :: (List.replicate (ticksLeft s + spare) .tick ++ rest) := ha
    obtain ⟨t, ht, hit, hcase⟩ := window_step_before_tick hi hw hhead
    rcases hcase with ⟨hdone, hag⟩ | ⟨hwt, hag, hl, hp⟩ | ⟨hwt, hag, hl, hp⟩
    · exact ⟨1, ticksLeft s + spare, t, by omega, by rw [runSteps_one, ht], hag.trans ha, hdone⟩
    · obtain ⟨k, m, u, hk, hrun, hagu, hu⟩ := ih _ (by omega) t hit hwt (by rw [hag, ha, hl]) rfl
      exact ⟨k + 1, m, u, by omega, (runSteps_succ ht k).trans hrun, hagu, hu⟩
    · have hag : t.agenda = List.replicate (ticksLeft t + spare + 1) .tick ++ rest := by
        rw [hag, ← hl]
        congr 2
        omega
      obtain ⟨k, m, u, hk, hrun, hagu, hu⟩ := ih _ (by omega) t hit hwt hag rfl
      exact ⟨k + 1, m, u, by omega, (runSteps_succ ht k).trans hrun, hagu, hu⟩

/-- Settles O43: at most max(T_POST_MS, 1000) Ticks are left, and at most one step more than the bytes that wait is pending. -/
theorem windowCompletesWithinItsTicks : Obligations.WindowCompletesWithinItsTicks := by
  intro s rest hi hw ha
  have hle := ticksLeft_le hw
  simp only [tRespMs] at hle
  have hpending : pendingSteps s ≤ s.inq.length + 1 := by
    unfold pendingSteps
    split <;> omega
  obtain ⟨k, m, t, hk, hrun, hag, hst, hd, hb⟩ :=
    window_completes (rest := rest) s hi hw (max s.cfg.tPostMs 1000 - ticksLeft s) (by rw [ha]; congr 2; omega)
  exact ⟨k, m, t, by omega, hrun, hag, hst, hd, hb⟩

end Sys2Proof.Machine
end

section
/-! SUPPORT. The host primitives in every state, what leaves in TX, that every step answers, and that a completion's saved values
stand. -/

namespace Sys2Proof.Machine

/-! ### The host primitives -/

/-- No register's word depends on the labels to come. -/
theorem readReg_agenda (s : State) (rest : List Label) (r : HostReg) :
    readReg { s with agenda := rest } r = readReg s r := by
  cases r <;> rfl

theorem hostRead_agenda (width : AccessWidth) (off : Offset) (s : State) (rest : List Label) :
    hostRead width off { s with agenda := rest } = hostRead width off s := by
  unfold hostRead
  split
  · exact readReg_agenda s rest _
  · rfl

/-- A host read is next. -/
theorem step_hostRead {s : State} {width : AccessWidth} {off : Offset} {rest : List Label}
    (h : s.agenda = .hostRead width off :: rest) :
    step s = .next { s with agenda := rest, readData := hostRead width off s } := by
  simp [step, nextStep, h, runLabel, hostRead_agenda]

/-- A word write to CMD runs the command of its word (R76, R101). -/
theorem step_command {s : State} {w : Word} {rest : List Label} (h : s.agenda = .hostWrite .word 0x000 w :: rest) :
    step s = exec (decodeCmd w) { s with agenda := rest } :=
  step_hostWrite h

/-- Settles O46: a command word has one decoding, `decodeCmd` of it. -/
theorem stepRunsTheDecodedCommand : Obligations.StepRunsTheDecodedCommand := by
  intro s w rest i ha hdec
  cases hdec
  exact step_command ha

/-- A word write at an offset of no writable register has no effect (R39). -/
theorem hostWrite_no_effect {off : Offset} (hoff : off ∉ ([0x000, 0x008, 0x00C, 0x010, 0x014] : List Offset)) (v : Word)
    (s : State) : hostWrite .word off v s = .next s := by
  cases hr : regReached .word off with
  | none => exact hostWrite_unreached hr v s
  | some r =>
    have at_offset : BitVec.ofNat 12 (regOffset r) = off := by rw [← (regReached_eq_some hr).2]; simp
    refine hostWrite_readOnly hr (fun hrw => hoff ?_) v s
    exact at_offset ▸ List.mem_map_of_mem (f := fun r => BitVec.ofNat 12 (regOffset r)) hrw

/-- Settles O15: one equation for a read, and for a write one per writable register and one for every other offset. -/
theorem hostAccessPrimitives : Obligations.HostAccessPrimitives := by
  refine fun s off v rest => ⟨fun ha => step_hostRead ha, fun ha => ?_⟩
  have hw := step_hostWrite ha
  refine ⟨?cmd, ?slave, ?addr, ?count, ?maxregs, fun hoff => hw.trans (hostWrite_no_effect hoff v _)⟩
  case cmd => rintro rfl; exact step_command ha
  all_goals rintro rfl; exact hw

/-! ### The request's eight bytes -/

/-- With internal steps next and a ready transport, each of them pushes one byte of the request. -/
theorem runSteps_internal_pushes (n : Nat) {rest : List Label} : ∀ s : State, s.state = .tx → s.txReady = true →
    s.agenda = List.replicate n .internal ++ rest → s.txIdx.toNat + n ≤ 8 →
    runSteps n s = .next (pushByte^[n] { s with agenda := rest }) := by
  induction n with
  | zero =>
    rintro s - - ha -
    cases ha
    rfl
  | succ n ih =>
    intro s hst hr ha hn
    have hlt : s.txIdx.toNat < reqLen := by simp only [reqLen]; omega
    have hstep : step s = .next (pushByte { s with agenda := List.replicate n .internal ++ rest }) :=
      (step_internal ha).trans (internalStep_tx hst hlt hr)
    have hidx := txIdx_succ hlt
    rw [runSteps_succ hstep, Function.iterate_succ_apply]
    exact ih _ hst hr rfl (by simp only [pushByte_txIdx]; omega)

/-- Settles O29: eight pushes from TXIDX = 0 hand over the whole of REQ. -/
theorem requestBytesLeaveInOrder : Obligations.RequestBytesLeaveInOrder := by
  intro s rest hst hidx hr ha
  have hfrom : s.txIdx.toNat = 0 := congrArg BitVec.toNat hidx
  have hall : s.req.toList.take 8 = s.req.toList := List.take_of_length_le (by simp)
  rw [runSteps_internal_pushes 8 s hst hr ha (by omega), pushByte_iterate 8 _ (by simp only; omega)]
  simp [hidx, hall]

/-! ### Every step answers -/

theorem hostWrite_answers (width : AccessWidth) (off : Offset) (v : Word) (s : State) :
    ∃ t, hostWrite width off v s = .next t := by
  unfold hostWrite
  split
  case h_1 => exact exec_answers_next (decodeCmd v) s
  all_goals exact ⟨_, rfl⟩

/-- Every label answers a next state where the internal step does. -/
theorem runLabel_answers {s : State} (h : ∃ t, internalStep s = .next t) (l : Label) : ∃ t, runLabel l s = .next t := by
  cases l with
  | hostWrite width off v => exact hostWrite_answers width off v s
  | txComplete =>
    simp only [runLabel]
    split <;> exact ⟨_, rfl⟩
  | internal => exact h
  | hostRead | rxArrive | txReady | tick | reset => exact ⟨_, rfl⟩

/-- Settles O52: the invariant keeps the internal step's store inside the buffer, and no other label can stop. -/
theorem noStepFaultsOrRefuses : Obligations.NoStepFaultsOrRefuses := by
  intro s hi
  unfold step nextStep
  split
  · unfold runAlone
    split
    · exact hi.internalStep_answers
    · exact ⟨_, rfl⟩
  · next l rest _ =>
    split
    · exact hi.internalStep_answers
    · have tail : BlockInv { s with agenda := rest } := hi.of_invariantPart_eq rfl
      exact runLabel_answers tail.internalStep_answers l

/-! ### The saved values of a completed transaction -/

/-- What a completion saves for the host (R82, R230): RESULT and the flags but CMDERR, STATE, the receive buffer, its two
lengths and the two CRCs. Every other field is that of reset. -/
def savedPart (s : State) : State :=
  { State.reset with
    status := { s.status with cmdErr := false }, result := s.result, state := s.state, rx := s.rx, rxLen := s.rxLen,
    total := s.total, crcCalc := s.crcCalc, crcRecv := s.crcRecv }

theorem BlockInv.not_busy_of_done {s : State} (h : BlockInv s) (hd : s.status.done = true) : s.status.busy = false := by
  have := h.flags.notBoth
  simpa [hd] using this

theorem BlockInv.idle_of_done {s : State} (h : BlockInv s) (hd : s.status.done = true) : s.state = .idle :=
  h.idle_of_not_busy (h.not_busy_of_done hd)

/-- In IDLE the controller has no step (R192). -/
theorem InternalStep.ne_idle {s t : State} (h : InternalStep s t) : s.state ≠ .idle := by
  intro hst
  have he := h.enabled
  simp [internalEnabled, hst] at he

theorem savedPart_tickTimers (s : State) : savedPart (tickTimers s) = savedPart s := by
  rw [tickTimers_eq]
  rfl

/-- In IDLE a step changes a saved value only by an acceptance or by Reset (R82, R231). -/
theorem StepCase.keeps_savedPart {s t : State} (h : StepCase s t) (hst : s.state = .idle)
    (hreset : ∀ rest, s.agenda ≠ .reset :: rest)
    (hread : ∀ w rest, s.agenda = .hostWrite .word 0x000 w :: rest → opField w ≠ 0x03) : savedPart t = savedPart s := by
  cases h with
  | urgent _ hstep | internal _ _ _ hstep => exact absurd hst hstep.ne_idle
  | idleTick | tick => exact savedPart_tickTimers _
  | command width off w rest _ ha hr hx =>
    obtain ⟨rfl, rfl⟩ := regReached_cmd hr
    cases decodedCommand_cases hx with
    | accepted h3 => exact absurd h3 (hread w rest ha)
    | init | byte | rejected => rfl
  | complete _ _ he => simp [txCompleteEnabled, hst] at he
  | reset rest ha => exact absurd ha (hreset rest)
  | internalNone | operand | read | arrive | ready | completeNone => rfl

/-- Settles O54: with DONE = 1 the controller is in IDLE, so the step keeps the saved part, and every REG view is a view of it. -/
theorem completedResultsStandUntilAcceptance : Obligations.CompletedResultsStandUntilAcceptance := by
  intro s t hi hd h hreset hread
  have hst := hi.idle_of_done hd
  have kept {α : Type} (f : State → α) : f (savedPart t) = f (savedPart s) :=
    congrArg f ((step_cases h).keeps_savedPart hst hreset hread)
  exact ⟨kept State.result, (kept (·.status.done)).trans hd, kept (·.status.ok),
    (kept (·.status.busy)).trans (hi.not_busy_of_done hd), (kept State.state).trans hst, kept State.rx, kept State.rxLen,
    kept State.total, kept State.crcCalc, kept State.crcRecv, fun i => kept (regView · i)⟩

end Sys2Proof.Machine
end

section
/-! SUPPORT. The encodings (R100-R110): what the decoder answers on a command word, on a request and on a response, and that each
is read back from its bits. -/

namespace Sys2Proof.Machine

/-! ### Command words -/

@[simp] theorem opField_cmdWord (data op : Byte) : opField (cmdWord data op) = op := by
  refine BitVec.eq_of_getLsbD_eq fun i h => ?_
  have low : (cmdWord data op).getLsbD i = op.getLsbD i :=
    (BitVec.getLsbD_append (x := 0#16 ++ data) (y := op)).trans (if_pos h)
  simp [opField, h, low]

@[simp] theorem dataField_cmdWord (data op : Byte) : dataField (cmdWord data op) = data := by
  refine BitVec.eq_of_getLsbD_eq fun i h => ?_
  have outer : (cmdWord data op).getLsbD (8 + i) = (0#16 ++ data).getLsbD (8 + i - 8) :=
    (BitVec.getLsbD_append (x := 0#16 ++ data) (y := op)).trans (if_neg (by omega))
  have inner : (0#16 ++ data).getLsbD i = data.getLsbD i := BitVec.getLsbD_append.trans (if_pos h)
  simp [dataField, h, outer, inner]

theorem decodeCmd_crcInit {w : Word} (h : opField w = 0x01) : decodeCmd w = .crcInit := by
  simp [decodeCmd, h]

theorem decodeCmd_crcByte {w : Word} (h : opField w = 0x02) : decodeCmd w = .crcByte (dataField w) := by
  simp [decodeCmd, h]

theorem decodeCmd_readHolding {w : Word} (h : opField w = 0x03) : decodeCmd w = .readHolding := by
  simp [decodeCmd, h]

theorem decodeCmd_illegalCmd {w : Word} (h1 : opField w ≠ 0x01) (h2 : opField w ≠ 0x02) (h3 : opField w ≠ 0x03) :
    decodeCmd w = .illegalCmd (opField w) := by
  rw [decodeCmd, if_neg h1, if_neg h2, if_neg h3]

/-- An illegal OP is none of the three of R101. -/
theorem illegalCmd_wf_iff {op : Byte} : (Instr.illegalCmd op).wf = true ↔ op ≠ 0x01 ∧ op ≠ 0x02 ∧ op ≠ 0x03 := by
  simp [Instr.wf, legalOps]

/-- OP alone, and DATA under OP 0x02, tell which instruction a command word is (R103). -/
theorem decodeCmd_congr {v w : Word} (hop : opField v = opField w)
    (hdata : opField v = 0x02 → dataField v = dataField w) : decodeCmd v = decodeCmd w := by
  by_cases h2 : opField v = 0x02
  · rw [decodeCmd_crcByte h2, decodeCmd_crcByte (hop ▸ h2), hdata h2]
  · simp only [decodeCmd, ← hop, if_neg h2]

/-! ### The request -/

/-- The request frame is its six-byte head with the CRC appended (R105, R106). -/
theorem requestFrame_toList (slaveId : Byte) (startAddr regCount : Half) :
    (requestFrame slaveId startAddr regCount).toList = appendCrc (requestHead slaveId startAddr regCount) := rfl

theorem decodeSent_requestFrame (slaveId : Byte) (startAddr regCount : Half) :
    decodeSent (requestFrame slaveId startAddr regCount).toList = .ok (.req8 slaveId startAddr regCount) := by
  simp [requestFrame, decodeSent]

/-- The CRC check compares the CRC of all bytes but the last two with those two, low byte first (R146). -/
theorem crcOk_append_pair (m : List Byte) (lo hi : Byte) : crcOk (m ++ [lo, hi]) = true ↔ crc16 m = pair hi lo := by
  simp [crcOk]

/-- A message with its own CRC behind it passes the check (R145, R146). -/
@[simp] theorem crcOk_appendCrc (m : List Byte) : crcOk (appendCrc m) = true :=
  (crcOk_append_pair m _ _).2 (pair_hi_lo _).symm

/-! ### Responses -/

/-- Bit 7 of the function-code byte alone tells which response a header starts (R109). -/
theorem decodeHeader_fcByte (slaveId : Byte) (exc : Bool) (fc : BitVec 7) (third : Byte) :
    decodeHeader slaveId (fcByte exc fc) third = if exc then .rspx slaveId fc third else .rspn slaveId fc third := by
  simp [decodeHeader]

/-- A whole response frame is read back from its bytes (R107, R108, R110). -/
theorem decodeFrame_encodeFrame {f : ResponseFrame} (hwf : f.wf = true) : decodeFrame (encodeFrame f) = .ok f := by
  cases f with
  | normal slaveId fc data crc =>
    have hlen : data.length ≤ 255 := by simpa [ResponseFrame.wf] using hwf
    have hcount : (BitVec.ofNat 8 data.length).toNat = data.length := Nat.mod_eq_of_lt (by omega)
    simp [encodeFrame, decodeFrame, hcount]
  | exception slaveId fc code crc => simp [encodeFrame, decodeFrame]

/-- Bytes that are two bytes past the first `n` are those `n` and the two. -/
theorem split_of_drop_eq_pair {rest : List Byte} {n : Nat} {lo hi : Byte} (h : rest.drop n = [lo, hi]) :
    rest.take n ++ [lo, hi] = rest ∧ (rest.take n).length = n := by
  have hlen : rest.length - n = 2 := by simpa using congrArg List.length h
  exact ⟨h ▸ List.take_append_drop n rest, by rw [List.length_take]; omega⟩

/-- Bytes read as a frame are the bytes of that frame, which is well-formed (R107, R108, R110). -/
theorem encodeFrame_of_decodeFrame {bytes : List Byte} {f : ResponseFrame} (h : decodeFrame bytes = .ok f) :
    encodeFrame f = bytes ∧ f.wf = true := by
  unfold decodeFrame at h
  split at h
  case h_2 => cases h
  case h_1 b0 b1 b2 rest =>
    split at h
    case isTrue hexc =>
      split at h
      case h_2 => cases h
      case h_1 lo hi =>
        cases h
        have hfc : fcByte true (b1.extractLsb' 0 7) = b1 := hexc ▸ fcByte_eta b1
        simp [encodeFrame, ResponseFrame.wf, hfc]
    case isFalse hexc =>
      split at h
      case h_2 => cases h
      case h_1 lo hi hdrop =>
        cases h
        have hfc : fcByte false (b1.extractLsb' 0 7) = b1 := by simpa [hexc] using fcByte_eta b1
        obtain ⟨hsplit, hcount⟩ := split_of_drop_eq_pair hdrop
        have hbyte : b2.toNat ≤ 255 := Nat.le_of_lt_succ b2.isLt
        simp [encodeFrame, ResponseFrame.wf, hfc, hcount, hsplit, hbyte, -List.length_take]

/-! ### The statements -/

/-- Settles O12: one case per constructor; the bits of each operand are read back where the encoder put them. -/
theorem decodeOfEncodeIsIdentity : Obligations.DecodeOfEncodeIsIdentity := by
  intro i hwf
  cases i with
  | crcInit => exact congrArg Except.ok (decodeCmd_crcInit (opField_cmdWord _ _))
  | crcByte data =>
    exact congrArg Except.ok ((decodeCmd_crcByte (opField_cmdWord _ _)).trans (by simp))
  | readHolding => exact congrArg Except.ok (decodeCmd_readHolding (opField_cmdWord _ _))
  | illegalCmd op =>
    obtain ⟨h1, h2, h3⟩ := illegalCmd_wf_iff.1 hwf
    have hop := opField_cmdWord 0 op
    rw [← hop] at h1 h2 h3
    exact congrArg Except.ok ((decodeCmd_illegalCmd h1 h2 h3).trans (by rw [hop]))
  | req8 slaveId startAddr regCount => exact decodeSent_requestFrame slaveId startAddr regCount
  | rspn slaveId fc byteCount => exact congrArg Except.ok (decodeHeader_fcByte slaveId false fc byteCount)
  | rspx slaveId fc code => exact congrArg Except.ok (decodeHeader_fcByte slaveId true fc code)

/-- Settles O13: encoding then decoding, and decoding then encoding. -/
theorem responseFramesRoundTrip : Obligations.ResponseFramesRoundTrip :=
  ⟨fun _ => decodeFrame_encodeFrame, fun _ _ => encodeFrame_of_decodeFrame⟩

/-- Settles O11: the decoder run on each of the seven words. -/
theorem sampleWordsDecode : Obligations.SampleWordsDecode := by
  unfold Obligations.SampleWordsDecode
  decide +kernel

end Sys2Proof.Machine
end

section
/-! SUPPORT. Writes to CMD (R103, R104): which are rejected and which accepted, and that acceptance runs the framer (R161, R162). -/

namespace Sys2Proof.Machine

/-- Settles O8: the illegal command's meaning is the rejection, whose one effect is CMDERR. -/
theorem illegalCommandOnlySetsCmdErr : Obligations.IllegalCommandOnlySetsCmdErr := fun _ _ _ => rfl

/-- Settles O23: the rejection of READ_HOLDING while BUSY has the one effect of every rejection, CMDERR. -/
theorem readHoldingWhileBusyLeavesTransaction : Obligations.ReadHoldingWhileBusyLeavesTransaction :=
  fun _ => exec_readHolding_busy

/-- Settles O10: the two words decode to one instruction. -/
theorem reservedCommandBitsIgnored : Obligations.ReservedCommandBitsIgnored := by
  intro s v w rest hop hdata
  have runs (u : Word) : step { s with agenda := .hostWrite .word 0x000 u :: rest } =
      exec (decodeCmd u) { s with agenda := rest } := step_command (s := { s with agenda := _ }) rfl
  rw [runs, runs, decodeCmd_congr hop hdata]

/-- The two reasons of R104 to reject a command word: an illegal OP, or READ_HOLDING while BUSY. -/
theorem exec_decodeCmd_rejected {w : Word} {s : State} (h1 : opField w ≠ 0x01) (h2 : opField w ≠ 0x02)
    (hbusy : opField w = 0x03 → s.status.busy = true) : exec (decodeCmd w) s = .next (rejectCommand s) := by
  by_cases h3 : opField w = 0x03
  · rw [decodeCmd_readHolding h3]
    exact exec_readHolding_busy (hbusy h3)
  · rw [decodeCmd_illegalCmd h1 h2 h3]
    rfl

/-- All bytes but the three legal opcodes are illegal ones (R104). -/
theorem illegalOps_count : ((List.range 256).filter fun n => (Instr.illegalCmd (BitVec.ofNat 8 n)).wf).length = 253 := by
  decide +kernel

/-- Settles O9: a write to CMD runs its decoded word, which is rejected for the two reasons of R104 and for no other. -/
theorem commandWriteRejectedOrAccepted : Obligations.CommandWriteRejectedOrAccepted := by
  refine ⟨illegalOps_count, fun s w rest ha => ⟨?rejected, ?accepted⟩⟩
  case rejected =>
    rintro ⟨h1, h2, hbusy⟩
    exact (step_command ha).trans (exec_decodeCmd_rejected h1 h2 hbusy)
  case accepted =>
    rintro i (⟨hop, rfl⟩ | ⟨hop, rfl⟩ | ⟨hop, hb, rfl⟩) <;> rw [step_command ha]
    · exact ⟨_, by rw [decodeCmd_crcInit hop]; rfl, rfl, rfl⟩
    · exact ⟨_, by rw [decodeCmd_crcByte hop]; rfl, rfl, rfl⟩
    · have hx : exec .readHolding { s with agenda := rest } = _ := exec_readHolding_accepted hb
      exact ⟨_, by rw [decodeCmd_readHolding hop, hx], hx, rfl⟩

/-- Settles O26: acceptance and REQ8 leave the same request frame, and that frame is its head with the CRC appended. -/
theorem acceptanceRunsTheFramer : Obligations.AcceptanceRunsTheFramer := by
  intro s hb
  refine ⟨_, _, exec_readHolding_accepted hb, rfl, rfl, rfl, ?crcBytes, ?decodes, ?passes⟩
  case crcBytes => exact (pair_hi_lo _).symm
  case decodes => exact decodeSent_requestFrame _ _ _
  case passes => rw [acceptTransaction_req, requestFrame_toList, crcOk_appendCrc]

end Sys2Proof.Machine
end

section
/-! SUPPORT. The CRC engine (R141-R147): its functions on bits, that none of them loses anything of its arguments, and with
that the residue and what the check rejects. -/

namespace Sys2Proof.Machine

/-! ### The bit step -/

/-- A bit of the bit step: the next higher bit, XORed with CRC_POLY's when the bit shifted out was 1 (R141). -/
theorem crcBit_bit (c : Half) (i : Nat) :
    (crcBit c).getLsbD i = (c.getLsbD (i + 1) ^^ (c.getLsbD 0 && crcPoly.getLsbD i)) := by
  unfold crcBit
  split <;> simp_all [Nat.add_comm]

/-- The bit shifted out can be read off the result's top bit, which is CRC_POLY's alone. -/
theorem crcBit_topBit (c : Half) : (crcBit c).getLsbD 15 = c.getLsbD 0 := by
  have poly : crcPoly.getLsbD 15 = true := by decide
  rw [crcBit_bit, poly, BitVec.getLsbD_of_ge c 16 le_rfl, Bool.and_true, Bool.false_xor]

/-- The bit step loses nothing: the top bit is the bit shifted out, and that tells what was XORed into the others. -/
theorem crcBit_injective : Function.Injective crcBit := by
  intro c d h
  have low : c.getLsbD 0 = d.getLsbD 0 := by rw [← crcBit_topBit c, h, crcBit_topBit]
  refine BitVec.eq_of_getLsbD_eq fun i _ => ?_
  cases i with
  | zero => exact low
  | succ i =>
    have hbit := congrArg (·.getLsbD i) h
    simpa only [crcBit_bit, low, Bool.xor_right_inj, Bool.xor_left_inj] using hbit

theorem crcBits_eq_iterate (n : Nat) (c : Half) : crcBits n c = crcBit^[n] c := by
  induction n generalizing c with
  | zero => rfl
  | succ n ih => exact ih (crcBit c)

/-- While only zeros are shifted out the bit steps are a shift. -/
theorem crcBits_shift (n : Nat) (c : Half) (h : ∀ i < n, c.getLsbD i = false) : crcBits n c = c >>> n := by
  induction n generalizing c with
  | zero => rfl
  | succ n ih =>
    have one : crcBit c = c >>> 1 := by rw [crcBit, h 0 (by omega), if_neg Bool.false_ne_true]
    have shifted (i : Nat) (hi : i < n) : (c >>> 1).getLsbD i = false := by
      simpa using h (1 + i) (by omega)
    rw [crcBits, one, ih _ shifted, ← BitVec.shiftRight_add, Nat.add_comm]

/-! ### The byte update -/

/-- The XOR of a byte leaves the high byte (R142). -/
@[simp] theorem hiByte_xor_byte (c : Half) (b : Byte) : hiByte (c ^^^ b.setWidth 16) = hiByte c := by
  refine BitVec.eq_of_getLsbD_eq fun i h => ?_
  simp [hiByte]

/-- The XOR of a byte is the XOR into the low byte (R142). -/
@[simp] theorem loByte_xor_byte (c : Half) (b : Byte) : loByte (c ^^^ b.setWidth 16) = loByte c ^^^ b := by
  refine BitVec.eq_of_getLsbD_eq fun i h => ?_
  have h16 : i < 16 := by omega
  simp [loByte, h, h16]

/-- For one byte, different running values stay different. -/
theorem crcByte_left_injective (b : Byte) : Function.Injective (crcByte · b) := by
  intro c d h
  simp only [crcByte, crcBits_eq_iterate] at h
  exact (BitVec.xor_left_inj _).1 (crcBit_injective.iterate 8 h)

/-- For one running value, different bytes give different results. -/
theorem crcByte_right_injective (c : Half) : Function.Injective (crcByte c) := by
  intro b b' h
  simp only [crcByte, crcBits_eq_iterate] at h
  have hxor := crcBit_injective.iterate 8 h
  have hlow := congrArg loByte hxor
  rw [loByte_xor_byte, loByte_xor_byte] at hlow
  exact (BitVec.xor_right_inj _).1 hlow

/-- Folding in the running value's own low byte clears it, so the high byte alone moves down. -/
theorem crcByte_pair_self (hi lo : Byte) : crcByte (pair hi lo) lo = pair 0 hi := by
  have cleared : pair hi lo ^^^ lo.setWidth 16 = pair hi 0 := by
    rw [← pair_hi_lo (pair hi lo ^^^ lo.setWidth 16), hiByte_xor_byte, loByte_xor_byte, hiByte_pair, loByte_pair,
      BitVec.xor_self]
    rfl
  have zeros (i : Nat) (h : i < 8) : (pair hi 0).getLsbD i = false := by
    rw [pair_bit, if_pos h]
    exact BitVec.getLsbD_zero
  rw [crcByte, cleared, crcBits_shift 8 _ zeros]
  refine BitVec.eq_of_getLsbD_eq fun i _ => ?_
  rw [BitVec.getLsbD_ushiftRight, pair_bit, pair_bit, if_neg (by omega), Nat.add_sub_cancel_left]
  split
  · rfl
  · next h8 => exact (BitVec.getLsbD_of_ge hi i (by omega)).trans BitVec.getLsbD_zero.symm

/-- The residue: a running value that is the two bytes folded next, low byte first, ends at 0 (R147). -/
theorem crcByte_crcByte_pair (hi lo : Byte) : crcByte (crcByte (pair hi lo) lo) hi = 0 := by
  rw [crcByte_pair_self, crcByte_pair_self]
  rfl

/-! ### Sequences -/

/-- For one sequence, different running values stay different. -/
theorem crcFold_injective (s : List Byte) : Function.Injective (crcFold · s) := by
  induction s with
  | nil => exact Function.injective_id
  | cons b s ih => exact ih.comp (crcByte_left_injective b)

theorem crc16_append (a b : List Byte) : crc16 (a ++ b) = crcFold (crc16 a) b := crcFold_append _ a b

/-- A frame leaves residue 0 exactly when the two bytes behind the message are its CRC, low byte first (R147). -/
theorem crc16_append_pair_eq_zero (m : List Byte) (lo hi : Byte) :
    crc16 (m ++ [lo, hi]) = 0 ↔ crc16 m = pair hi lo := by
  rw [crc16_append, ← crcByte_crcByte_pair hi lo]
  exact (crcFold_injective [lo, hi]).eq_iff

/-- A frame of at least two bytes is a message and two bytes. -/
theorem exists_append_pair {f : List Byte} (h : 2 ≤ f.length) :
    ∃ (m : List Byte) (lo hi : Byte), f = m ++ [lo, hi] := by
  have two : (f.drop (f.length - 2)).length = 2 := by rw [List.length_drop]; omega
  obtain ⟨lo, hi, hlast⟩ := List.length_eq_two.1 two
  exact ⟨_, lo, hi, hlast ▸ (List.take_append_drop (f.length - 2) f).symm⟩

/-- On frames of at least two bytes the residue test is the comparison of R146. -/
theorem crcOk_iff_crc16_eq_zero {f : List Byte} (h : 2 ≤ f.length) : crcOk f = true ↔ crc16 f = 0 := by
  obtain ⟨m, lo, hi, rfl⟩ := exists_append_pair h
  rw [crcOk_append_pair, crc16_append_pair_eq_zero]

theorem two_le_length_of_crcOk {f : List Byte} (h : crcOk f = true) : 2 ≤ f.length := by
  simp only [crcOk, Bool.and_eq_true, decide_eq_true_eq] at h
  exact h.1

/-- Two sequences with one CRC that differ at most in one byte are the same. -/
theorem eq_of_crc16_eq {front back : List Byte} {b b' : Byte}
    (h : crc16 (front ++ b :: back) = crc16 (front ++ b' :: back)) : b = b' := by
  rw [crc16_append, crc16_append, crcFold_cons, crcFold_cons] at h
  exact crcByte_right_injective _ (crcFold_injective back h)

/-! ### The statements -/

/-- Settles O5: the residue of a message with two bytes behind it tells whether they are its CRC. -/
theorem crcResidueIsZeroExactlyWhenCheckPasses : Obligations.CrcResidueIsZeroExactlyWhenCheckPasses :=
  ⟨fun m => (crc16_append_pair_eq_zero m _ _).2 (pair_hi_lo _).symm, fun _ => crcOk_iff_crc16_eq_zero⟩

/-- Settles O4: two frames that pass both have the CRC 0, and one changed byte changes the CRC. -/
theorem crcCheckRejectsEveryOneByteChange : Obligations.CrcCheckRejectsEveryOneByteChange := by
  refine ⟨crcOk_append_pair, crcOk_appendCrc, fun front back b b' hne hok => ?changed, ?request⟩
  case changed =>
    refine Bool.eq_false_iff.2 fun hok' => hne (eq_of_crc16_eq (front := front) (back := back) ?_)
    rw [(crcOk_iff_crc16_eq_zero (two_le_length_of_crcOk hok)).1 hok,
      (crcOk_iff_crc16_eq_zero (two_le_length_of_crcOk hok')).1 hok']
  case request => rw [requestFrame_toList, crcOk_appendCrc]

/-- Settles O1: on numbers the shift is the half and the bit shifted out the remainder. -/
theorem crcBitHalvesAndXorsWhenOdd : Obligations.CrcBitHalvesAndXorsWhenOdd := by
  refine ⟨fun c => ?_, by decide, by decide, by decide⟩
  have half : (c >>> 1).toNat = c.toNat / 2 := by rw [BitVec.toNat_ushiftRight, Nat.shiftRight_eq_div_pow, pow_one]
  have odd : c.getLsbD 0 = true ↔ c.toNat % 2 = 1 := by simp [BitVec.getLsbD, Nat.testBit_zero]
  simp only [crcBit, odd]
  split
  · rw [BitVec.toNat_xor, half]
    rfl
  · exact half

/-- Settles O2: the XOR by bits, the eight steps as an iterate, and the rule's example run. -/
theorem crcByteXorsLowByteThenEightBitSteps : Obligations.CrcByteXorsLowByteThenEightBitSteps :=
  ⟨fun c b => ⟨hiByte_xor_byte c b, loByte_xor_byte c b, crcBits_eq_iterate 8 _⟩,
    by decide +kernel, by decide +kernel, by decide +kernel⟩

/-- Settles O3: crc16 is a left fold, so a sequence may be cut anywhere. -/
theorem crcOfSequenceFoldsFromSeed : Obligations.CrcOfSequenceFoldsFromSeed :=
  ⟨crc16_nil, crc16_snoc, crc16_append, by decide +kernel, by decide +kernel, by decide +kernel⟩

end Sys2Proof.Machine
end

section
/-! SUPPORT. The host commands of the CRC engine (R149, R150): each alone, and a sequence of them. -/

namespace Sys2Proof.Machine

/-- A word write of CRC_INIT (R149). -/
theorem step_crcInit {s : State} {w : Word} {rest : List Label} (ha : s.agenda = .hostWrite .word 0x000 w :: rest)
    (hop : opField w = 0x01) : step s = .next (setCrcAcc crcSeed { s with agenda := rest }) := by
  rw [step_command ha, decodeCmd_crcInit hop]
  rfl

/-- A word write of CRC_BYTE (R150). -/
theorem step_crcByte {s : State} {w : Word} {rest : List Label} (ha : s.agenda = .hostWrite .word 0x000 w :: rest)
    (hop : opField w = 0x02) :
    step s = .next (setCrcAcc (crcByte s.crcAcc (dataField w)) { s with agenda := rest }) := by
  rw [step_command ha, decodeCmd_crcByte hop]
  rfl

/-- Writes of CRC_BYTE fold their bytes into CRC_ACC, first byte first. -/
theorem runSteps_crcBytes (m : List Byte) {rest : List Label} : ∀ s : State, s.status.cmdErr = false →
    s.agenda = m.map (fun b => .hostWrite .word 0x000 (cmdWord b 0x02)) ++ rest →
    runSteps m.length s = .next { s with agenda := rest, crcAcc := crcFold s.crcAcc m } := by
  induction m with
  | nil =>
    rintro s - ha
    cases ha
    rfl
  | cons b m ih =>
    intro s herr ha
    have hstep := step_crcByte ha (opField_cmdWord b 0x02)
    have flags : crcCommandFlags s.status = s.status := by rw [crcCommandFlags, ← herr]
    rw [dataField_cmdWord] at hstep
    rw [List.length_cons, runSteps_succ hstep, ih _ rfl rfl]
    simp only [setCrcAcc, flags, crcFold_cons]

/-- Settles O6: the arm's one effect, its opcode, and a read of CRC behind it. -/
theorem crcInitSetsSeed : Obligations.CrcInitSetsSeed := by
  refine ⟨fun _ => rfl, fun w hop => congrArg Except.ok (decodeCmd_crcInit hop), fun s rest ha => ?_⟩
  rw [runSteps_succ (step_crcInit ha (by decide)), runSteps_one, step_hostRead rfl,
    hostRead_eq_readReg (r := .crc) rfl]
  rfl

/-- Settles O7: CRC_INIT puts the seed in CRC_ACC, and the writes behind it fold the message into it. -/
theorem crcByteFoldsIntoAccumulator : Obligations.CrcByteFoldsIntoAccumulator := by
  refine ⟨fun _ _ => rfl, fun w hop => congrArg Except.ok (decodeCmd_crcByte hop), by decide +kernel, by decide +kernel,
    fun s m rest ha => ?_⟩
  rw [runSteps_succ (step_crcInit ha (by decide)), runSteps_crcBytes m _ rfl rfl]
  rfl

end Sys2Proof.Machine
end

section
/-! SUPPORT. A whole response (R173-R186): the run that pops and stores the bytes that are due, and the check of a frame
from its bytes. -/

namespace Sys2Proof.Machine

/-! ### The bytes of the receive buffer -/

/-- What the receive buffer holds at an index, from the list of its bytes. -/
theorem read_of_rxBytes {m : Memory} {l : List Byte} {i : Nat} (h : rxBytes m l.length = l) (hi : i < l.length) :
    Memory.read m i = l.getD i 0 := by
  rw [← List.getElem_eq_getD (h := hi), ← List.getElem_of_eq h (by rwa [rxBytes_length])]
  simp [rxBytes]

theorem rxBytes_eq_take {m : Memory} {l : List Byte} {n : Nat} (h : rxBytes m l.length = l) (hn : n ≤ l.length) :
    rxBytes m n = l.take n := by
  rw [← h, rxBytes, rxBytes, ← List.map_take, List.take_range, min_eq_left hn]

/-! ### Storing several bytes -/

/-- The state after the parser has popped and stored the bytes `p` (R173, R178). -/
def storedBytes (p : List Byte) (s : State) : State := p.foldl (fun u b => storedByte b u.inq.tail u) s

@[simp] theorem storedBytes_nil (s : State) : storedBytes [] s = s := rfl

@[simp] theorem storedBytes_cons (b : Byte) (p : List Byte) (s : State) :
    storedBytes (b :: p) s = storedBytes p (storedByte b s.inq.tail s) := rfl

/-- Stores write the queue, the buffer and RXLEN alone. -/
theorem storedBytes_frame (p : List Byte) (s : State) :
    storedBytes p s =
      { s with inq := (storedBytes p s).inq, rx := (storedBytes p s).rx, rxLen := (storedBytes p s).rxLen } := by
  induction p generalizing s with
  | nil => rfl
  | cons b p ih => exact ih _

@[simp] theorem storedBytes_cfg (p : List Byte) (s : State) : (storedBytes p s).cfg = s.cfg := by rw [storedBytes_frame]
@[simp] theorem storedBytes_state (p : List Byte) (s : State) : (storedBytes p s).state = s.state := by
  rw [storedBytes_frame]
@[simp] theorem storedBytes_total (p : List Byte) (s : State) : (storedBytes p s).total = s.total := by
  rw [storedBytes_frame]
@[simp] theorem storedBytes_latched (p : List Byte) (s : State) : (storedBytes p s).latched = s.latched := by
  rw [storedBytes_frame]
@[simp] theorem storedBytes_elapsed (p : List Byte) (s : State) : (storedBytes p s).elapsed = s.elapsed := by
  rw [storedBytes_frame]
@[simp] theorem storedBytes_agenda (p : List Byte) (s : State) : (storedBytes p s).agenda = s.agenda := by
  rw [storedBytes_frame]

theorem storedBytes_inq {p q : List Byte} {s : State} (h : s.inq = p ++ q) : (storedBytes p s).inq = q := by
  induction p generalizing s with
  | nil => exact h
  | cons b p ih => exact ih (by rw [storedByte_inq, h]; rfl)

theorem storedBytes_rxLen {p : List Byte} {s : State} (hfit : s.rxLen.toNat + p.length ≤ s.cfg.rxCap) :
    (storedBytes p s).rxLen.toNat = s.rxLen.toNat + p.length := by
  induction p generalizing s with
  | nil => rfl
  | cons b p ih =>
    rw [List.length_cons] at hfit ⊢
    have hone := rxLen_succ (s := s) (by omega)
    rw [storedBytes_cons, ih (by rw [storedByte_rxLen, hone, storedByte_cfg]; omega), storedByte_rxLen, hone]
    omega

theorem wf_storedBytes (p : List Byte) {s : State} (hwf : Memory.wf s.rx = true) :
    Memory.wf (storedBytes p s).rx = true := by
  induction p generalizing s with
  | nil => exact hwf
  | cons b p ih => exact ih (Memory.wf_write hwf _ _)

/-- A byte stored at RXLEN stands behind the bytes below it. -/
theorem rxBytes_storedByte {s : State} (b : Byte) (rest : List Byte) (hwf : Memory.wf s.rx = true) :
    rxBytes (storedByte b rest s).rx (s.rxLen.toNat + 1) = rxBytes s.rx s.rxLen.toNat ++ [b] := by
  rw [rxBytes_succ, storedByte_rx, rxBytes_write _ _ le_rfl, Memory.read_write_same hwf]

/-- The bytes stored stand behind those below RXLEN, in order. -/
theorem rxBytes_storedBytes {p : List Byte} {s : State} (hwf : Memory.wf s.rx = true)
    (hfit : s.rxLen.toNat + p.length ≤ s.cfg.rxCap) :
    rxBytes (storedBytes p s).rx (s.rxLen.toNat + p.length) = rxBytes s.rx s.rxLen.toNat ++ p := by
  induction p generalizing s with
  | nil => exact (List.append_nil _).symm
  | cons b p ih =>
    rw [List.length_cons] at hfit ⊢
    have hone := rxLen_succ (s := s) (by omega)
    have rest := ih (s := storedByte b s.inq.tail s) (Memory.wf_write hwf _ _)
      (by rw [storedByte_rxLen, hone, storedByte_cfg]; omega)
    rw [storedByte_rxLen, hone, rxBytes_storedByte _ _ hwf, List.append_assoc] at rest
    rw [storedBytes_cons, Nat.add_comm p.length, ← Nat.add_assoc, rest]
    rfl

/-! ### The run of a reception -/

/-- The RXLEN at which the parser next examines what it has stored (R173, R178). -/
def due (s : State) : Nat := if s.state = .rxBody then s.total.toNat else hdrLen

/-- The examination that is due: of the header, or of the whole frame (R173, R179). -/
def examine (s : State) : Host.Outcome State Fault Refusal :=
  if s.state = .rxBody then .next (checkFrame s) else examineHeader s

theorem due_header {s : State} (h : s.state = .rxHeader) : due s = hdrLen := if_neg (by simp [h])

theorem due_body {s : State} (h : s.state = .rxBody) : due s = s.total.toNat := if_pos h

theorem examine_header {s : State} (h : s.state = .rxHeader) : examine s = examineHeader s := if_neg (by simp [h])

theorem examine_body {s : State} (h : s.state = .rxBody) : examine s = .next (checkFrame s) := if_pos h

/-- A step of a reception left alone stores the queue's oldest byte, and examines when it was the last one due. -/
theorem step_receives {s : State} {b : Byte} {rest : List Byte} (ha : s.agenda = []) (hr : Receiving s)
    (hq : s.inq = b :: rest) (hb : s.rxLen.toNat < s.cfg.rxCap) :
    step s = if s.rxLen.toNat + 1 = due s then examine (storedByte b rest s) else .next (storedByte b rest s) := by
  obtain ⟨hst, hT⟩ := hr
  have enabled : internalEnabled s = true :=
    (internalEnabled_iff s).2 (.inr (.inr (.inr ⟨hst, .inr (by simp [hq])⟩)))
  rw [step_alone ha enabled]
  rcases hst with hst | hst
  · have last : (s.rxLen + 1).toNat = hdrLen ↔ s.rxLen.toNat + 1 = due s := by rw [rxLen_succ hb, due_header hst]
    rw [internalStep_headerPop hst hT hq hb, examine_header (s := storedByte b rest s) hst]
    exact if_congr last rfl rfl
  · have last : s.rxLen + 1 = s.total ↔ s.rxLen.toNat + 1 = due s := by
      rw [← BitVec.toNat_inj, rxLen_succ hb, due_body hst]
    rw [internalStep_bodyPop hst hT hq hb, examine_body (s := storedByte b rest s) hst]
    exact if_congr last rfl rfl

/-- A reception left alone, with exactly the bytes due at the head of the queue, stores them and then examines. -/
theorem runSteps_due (p : List Byte) {q : List Byte} : ∀ s : State, s.agenda = [] → Receiving s → s.inq = p ++ q →
    s.rxLen.toNat < due s → s.rxLen.toNat + p.length = due s → due s ≤ s.cfg.rxCap →
    runSteps p.length s = examine (storedBytes p s) := by
  induction p with
  | nil =>
    intro s _ _ _ hlt hlen _
    exact absurd hlen hlt.ne
  | cons b p ih =>
    intro s ha hr hq hlt hlen hcap
    rw [List.cons_append] at hq
    rw [List.length_cons] at hlen ⊢
    have hb : s.rxLen.toNat < s.cfg.rxCap := by omega
    have hstep := step_receives ha hr hq hb
    rw [storedBytes_cons, hq]
    by_cases hlast : s.rxLen.toNat + 1 = due s
    · obtain rfl : p = [] := List.length_eq_zero_iff.1 (by omega)
      rw [if_pos hlast] at hstep
      rw [List.length_nil, runSteps_one, hstep]
      rfl
    · rw [if_neg hlast] at hstep
      have hone := rxLen_succ hb
      have hdue : due (storedByte b (p ++ q) s) = due s := rfl
      rw [runSteps_succ hstep]
      exact ih _ ha hr rfl (by rw [storedByte_rxLen, hone, hdue]; omega)
        (by rw [storedByte_rxLen, hone, hdue]; omega) hcap

/-- Every buffer has room for a header (R10). -/
theorem header_fits {s : State} (hlen : s.rxLen.toNat = 0) : s.rxLen.toNat + 3 ≤ s.cfg.rxCap := by
  have hcap := (Config.rxCap_range s.cfg).1
  omega

/-- Three bytes stored in an empty buffer are its first three. -/
theorem rxBytes_header {s : State} (hlen : s.rxLen.toNat = 0) (hwf : Memory.wf s.rx = true) (b0 b1 b2 : Byte) :
    rxBytes (storedBytes [b0, b1, b2] s).rx 3 = [b0, b1, b2] := by
  have bytes := rxBytes_storedBytes (p := [b0, b1, b2]) hwf (header_fits hlen)
  rwa [hlen] at bytes

theorem rxLen_header {s : State} (hlen : s.rxLen.toNat = 0) (b0 b1 b2 : Byte) :
    (storedBytes [b0, b1, b2] s).rxLen.toNat = 3 := by
  have len := storedBytes_rxLen (p := [b0, b1, b2]) (header_fits hlen)
  rwa [hlen] at len

/-- Three header bytes waiting before the deadline are stored in three steps, and the third of them runs the response they
decode to (R173). -/
theorem runSteps_header {s : State} {b0 b1 b2 : Byte} {q : List Byte} (ha : s.agenda = []) (hst : s.state = .rxHeader)
    (hlen : s.rxLen.toNat = 0) (hT : s.elapsed < tRespMs) (hwf : Memory.wf s.rx = true)
    (hq : s.inq = b0 :: b1 :: b2 :: q) :
    runSteps 3 s = exec (decodeHeader b0 b1 b2) (storedBytes [b0, b1, b2] s) := by
  have hcap := header_fits hlen
  have hdue : due s = 3 := due_header hst
  have run : runSteps 3 s = examine (storedBytes [b0, b1, b2] s) :=
    runSteps_due [b0, b1, b2] s ha ⟨.inl hst, hT⟩ hq (by omega) (by rw [hlen, hdue]; rfl) (by omega)
  have read (i : Nat) (hi : i < 3) : Memory.read (storedBytes [b0, b1, b2] s).rx i = [b0, b1, b2].getD i 0 :=
    read_of_rxBytes (rxBytes_header hlen hwf b0 b1 b2) hi
  rw [run, examine_header ((storedBytes_state _ s).trans hst), examineHeader, read 0 (by decide), read 1 (by decide),
    read 2 (by decide)]
  rfl

/-- The state after a normal header that fits has been stored and examined (R176). -/
def headerAccepted (b0 b1 b2 : Byte) (s : State) : State :=
  { storedBytes [b0, b1, b2] s with total := BitVec.ofNat 9 (totalLength b2), state := .rxBody }

/-- Three steps store a normal header that fits, and begin the body. -/
theorem runSteps_normalHeader {s : State} {b0 b1 b2 : Byte} {q : List Byte} (ha : s.agenda = [])
    (hst : s.state = .rxHeader) (hlen : s.rxLen.toNat = 0) (hT : s.elapsed < tRespMs) (hwf : Memory.wf s.rx = true)
    (hq : s.inq = b0 :: b1 :: b2 :: q) (hexc : isException b1 = false) (hfit : totalLength b2 ≤ s.cfg.rxCap) :
    runSteps 3 s = .next (headerAccepted b0 b1 b2 s) := by
  rw [runSteps_header ha hst hlen hT hwf hq, decodeHeader, hexc, if_neg Bool.false_ne_true]
  exact exec_rspn_fits hfit

/-- The rest of a frame, waiting before the deadline, is stored and the frame checked (R178, R179). -/
theorem runSteps_body {s : State} {p q : List Byte} (ha : s.agenda = []) (hst : s.state = .rxBody)
    (hT : s.elapsed < tRespMs) (hq : s.inq = p ++ q) (hlt : s.rxLen.toNat < s.total.toNat)
    (hlen : s.rxLen.toNat + p.length = s.total.toNat) (hcap : s.total.toNat ≤ s.cfg.rxCap) :
    runSteps p.length s = .next (checkFrame (storedBytes p s)) := by
  rw [← due_body hst] at hlt hlen hcap
  rw [runSteps_due p s ha ⟨.inr hst, hT⟩ hq hlt hlen hcap, examine_body ((storedBytes_state p s).trans hst)]

/-! ### The check of a frame -/

/-- The check of a frame whose bytes are all stored is the check of R146 on those bytes. -/
theorem checkFrame_of_rxBytes {s : State} {f : List Byte} (hf : rxBytes s.rx f.length = f)
    (htot : s.total.toNat = f.length) (h2 : 2 ≤ f.length) :
    checkFrame s = if crcOk f then finish .none 0 (returnedRegs s) (recordCrcs s)
      else finish .crcMismatch 0 0 (recordCrcs s) := by
  have same : (recordCrcs s).crcCalc = (recordCrcs s).crcRecv ↔ crcOk f = true := by
    rw [recordCrcs_crcCalc, recordCrcs_crcRecv, htot, read_of_rxBytes hf (by omega), read_of_rxBytes hf (by omega),
      rxBytes_eq_take hf (Nat.sub_le _ _)]
    simp [crcOk, h2, crcLen]
  rcases checkFrame_cases s with ⟨heq, h⟩ | ⟨hne, h⟩
  · rw [h, if_pos (same.1 heq)]
  · rw [h, if_neg (mt same.2 hne)]

/-- The registers read from the buffer are the byte pairs of the frame behind its header (R37, R111). -/
theorem frameReg_of_rxBytes {m : Memory} {f : List Byte} {k : Nat} (hf : rxBytes m f.length = f)
    (hk : 4 + 2 * k < f.length) : frameReg m k = pair (f.getD (3 + 2 * k) 0) (f.getD (4 + 2 * k) 0) := by
  rw [frameReg, read_of_rxBytes hf (by omega), read_of_rxBytes hf hk]

theorem readResult_finish_ok (n : Byte) (s : State) :
    readResult (finish .none 0 n s) = .ok ((List.range n.toNat).map (frameReg s.rx)) := rfl

theorem readResult_finish_crcMismatch (s : State) : readResult (finish .crcMismatch 0 0 s) = .err .crcMismatch 0 := rfl

/-- A whole normal response that fits, waiting before the deadline, is stored as it came and then checked (R173-R179). -/
theorem runSteps_wholeResponse {s : State} {b0 b1 b2 : Byte} {tail more : List Byte} (ha : s.agenda = [])
    (hst : s.state = .rxHeader) (hlen : s.rxLen.toNat = 0) (hT : s.elapsed < tRespMs) (hwf : Memory.wf s.rx = true)
    (hexc : isException b1 = false) (htail : tail.length = b2.toNat + 2) (hfit : totalLength b2 ≤ s.cfg.rxCap)
    (hq : s.inq = b0 :: b1 :: b2 :: (tail ++ more)) :
    ∃ u, runSteps (3 + tail.length) s = .next (checkFrame u) ∧ u.inq = more ∧ u.latched = s.latched ∧
      rxBytes u.rx (3 + tail.length) = b0 :: b1 :: b2 :: tail ∧ u.rxLen.toNat = 3 + tail.length ∧
      u.total.toNat = 3 + tail.length := by
  have inq : (headerAccepted b0 b1 b2 s).inq = tail ++ more := storedBytes_inq (p := [b0, b1, b2]) hq
  have len : (headerAccepted b0 b1 b2 s).rxLen.toNat = 3 := rxLen_header hlen b0 b1 b2
  have bytes : rxBytes (headerAccepted b0 b1 b2 s).rx 3 = [b0, b1, b2] := rxBytes_header hlen hwf b0 b1 b2
  have total : (headerAccepted b0 b1 b2 s).total.toNat = 3 + tail.length := by
    rw [htail]
    exact (toNat_ofNat_totalLength b2).trans (Nat.add_assoc _ _ _)
  have fits : 3 + tail.length ≤ s.cfg.rxCap := by rw [htail]; exact hfit
  have body : runSteps tail.length (headerAccepted b0 b1 b2 s) = .next (checkFrame (storedBytes tail _)) :=
    runSteps_body ha rfl hT inq (by omega) (by omega) (total.trans_le fits)
  have hroom : (headerAccepted b0 b1 b2 s).rxLen.toNat + tail.length ≤ s.cfg.rxCap := by rw [len]; exact fits
  have wf : Memory.wf (headerAccepted b0 b1 b2 s).rx = true := wf_storedBytes [b0, b1, b2] hwf
  have stored := rxBytes_storedBytes wf hroom
  have storedLen := storedBytes_rxLen hroom
  rw [len] at storedLen
  rw [len, bytes] at stored
  exact ⟨_, (runSteps_add (runSteps_normalHeader ha hst hlen hT hwf hq hexc hfit) _).trans body, storedBytes_inq inq,
    storedBytes_latched tail _, stored, storedLen, by rw [storedBytes_total, total]⟩

/-- Settles O42: the frame is stored as it came, its check is the check of R146, and the registers are its byte pairs. -/
theorem wholeResponseSucceedsExactlyWhenItsCrcPasses : Obligations.WholeResponseSucceedsExactlyWhenItsCrcPasses := by
  intro s b0 b1 b2 tail more ha hst hlen hT hwf hexc htail hfit hq f n
  have flen : f.length = 3 + tail.length := Nat.add_comm tail.length 3
  have hcap : totalLength b2 ≤ s.cfg.rxCap := by rw [totalLength, hdrLen, crcLen]; omega
  obtain ⟨u, run, inq, latched, bytes, len, total⟩ :=
    runSteps_wholeResponse ha hst (congrArg BitVec.toNat hlen) hT hwf hexc htail hcap hq
  rw [← flen] at run bytes len total
  have count : (returnedRegs u).toNat = n := by
    rw [returnedRegs_toNat, latched, read_of_rxBytes bytes (by omega)]
    rfl
  have regs : (List.range n).map (frameReg u.rx) =
      (List.range n).map fun k => pair (f.getD (3 + 2 * k) 0) (f.getD (4 + 2 * k) 0) := by
    refine List.map_congr_left fun k hk => frameReg_of_rxBytes bytes ?_
    have := List.mem_range.1 hk
    omega
  refine ⟨_, run, checkFrame_state u, checkFrame_busy u, by rw [checkFrame_inq, inq], by rw [checkFrame_rx, bytes],
    by rw [checkFrame_rxLen, len], by rw [checkFrame_eq, total], ?nRegs, ?read⟩
  all_goals rw [checkFrame_of_rxBytes bytes total (by omega)]
  case nRegs =>
    split
    · exact count
    · rfl
  case read =>
    split
    · rw [readResult_finish_ok, count, recordCrcs_rx, regs]
    · exact readResult_finish_crcMismatch _

end Sys2Proof.Machine
end

section
/-! SUPPORT. Invariants of a transaction: nothing but a TxComplete or Reset leads out of TX (R189), which internal steps end a
transaction (R188, R228), what each end records (R221), and a post-transmit delay longer than the deadline (R191, R272). -/

namespace Sys2Proof.Machine

/-! ### A transaction without TxComplete -/

/-- In TX the one internal step is a push (R192). -/
theorem InternalStep.eq_pushByte {s t : State} (h : InternalStep s t) (hst : s.state = .tx) : t = pushByte s := by
  cases h with
  | push => rfl
  | _ => simp_all

/-- In TX an internal step answers: it stores nothing. -/
theorem internalStep_tx_answers {s : State} (hst : s.state = .tx) : ∃ t, internalStep s = .next t := by
  cases he : internalEnabled s with
  | false => exact ⟨s, internalStep_disabled he⟩
  | true =>
    obtain ⟨hidx, hr⟩ : s.txIdx.toNat < reqLen ∧ s.txReady = true := by simpa [internalEnabled, hst] using he
    exact ⟨_, internalStep_tx hst hidx hr⟩

/-- In TX every step answers. -/
theorem step_tx_answers {s : State} (hst : s.state = .tx) : ∃ t, step s = .next t := by
  unfold step nextStep
  split
  · unfold runAlone
    split
    · exact internalStep_tx_answers hst
    · exact ⟨_, rfl⟩
  · next l rest _ =>
    split
    · exact internalStep_tx_answers hst
    · exact runLabel_answers (internalStep_tx_answers (s := { s with agenda := rest }) hst) l

/-- No step puts a label on the agenda. -/
theorem StepCase.agenda_subset {s t : State} (h : StepCase s t) : t.agenda ⊆ s.agenda := by
  have tail {l : Label} {rest : List Label} (ha : s.agenda = l :: rest) : rest ⊆ s.agenda :=
    ha ▸ List.subset_cons_self l rest
  cases h with
  | urgent _ hstep => rw [hstep.frame]; exact List.Subset.refl _
  | internal _ _ ha hstep => rw [hstep.frame]; exact tail ha
  | idleTick => rw [tickTimers_agenda]; exact List.Subset.refl _
  | tick _ ha => rw [tickTimers_agenda]; exact tail ha
  | command _ _ _ _ _ ha _ hx =>
    cases command_cases hx with
    | setCrc | rejected | accepted => exact tail ha
  | internalNone _ ha | operand _ _ _ _ _ ha | read _ _ _ ha | arrive _ _ ha | ready _ _ ha | complete _ ha
  | completeNone _ ha | reset _ ha => exact tail ha

/-- A transaction in TX, with no TxComplete and no Reset to come. -/
structure StuckInTx (s : State) : Prop where
  state : s.state = .tx
  busy : s.status.busy = true
  done : s.status.done = false
  agenda : ∀ l ∈ s.agenda, l ≠ .txComplete ∧ l ≠ .reset

/-- Every step leaves such a transaction where it is: a push stays in TX, a READ_HOLDING is rejected while BUSY. -/
theorem StepCase.keeps_stuckInTx {s t : State} (h : StepCase s t) (hs : StuckInTx s) : StuckInTx t := by
  have agenda (l : Label) (hl : l ∈ t.agenda) := hs.agenda l (h.agenda_subset hl)
  have head {l : Label} {rest : List Label} (ha : s.agenda = l :: rest) := hs.agenda l (by simp [ha])
  obtain ⟨hst, hb, hd, -⟩ := hs
  cases h with
  | urgent _ hstep | internal _ _ _ hstep =>
    obtain rfl := hstep.eq_pushByte hst
    exact ⟨hst, hb, hd, agenda⟩
  | idleTick => rw [tickTimers_tx hst] at agenda ⊢; exact ⟨hst, hb, hd, agenda⟩
  | tick rest =>
    rw [tickTimers_tx (s := { s with agenda := rest }) hst] at agenda ⊢
    exact ⟨hst, hb, hd, agenda⟩
  | command _ _ _ _ _ _ _ hx =>
    cases command_cases hx with
    | setCrc | rejected => exact ⟨hst, hb, hd, agenda⟩
    | accepted hidle => exact absurd (hb.symm.trans hidle) (by decide)
  | complete _ ha => exact absurd rfl (head ha).1
  | reset _ ha => exact absurd rfl (head ha).2
  | internalNone | operand | read | arrive | ready | completeNone => exact ⟨hst, hb, hd, agenda⟩

/-- Such a transaction is stuck for any number of steps. -/
theorem runSteps_stuckInTx (n : Nat) {s : State} (hs : StuckInTx s) : ∃ t, runSteps n s = .next t ∧ StuckInTx t := by
  induction n generalizing s with
  | zero => exact ⟨s, rfl, hs⟩
  | succ n ih =>
    obtain ⟨u, hu⟩ := step_tx_answers hs.state
    rw [runSteps_succ hu]
    exact ih ((step_cases hu).keeps_stuckInTx hs)

/-- Settles O33: a transaction in TX with no TxComplete and no Reset to come stays one at every step. -/
theorem withoutTxCompleteTheTransactionIsStuck : Obligations.WithoutTxCompleteTheTransactionIsStuck := by
  intro n s hst hb hd ha
  obtain ⟨t, ht, htx, hbt, hdt, -⟩ := runSteps_stuckInTx n ⟨hst, hb, hd, ha⟩
  exact ⟨t, ht, htx, hbt, hdt⟩

/-! ### The steps that end a transaction -/

/-- A step that ends a transaction and is no Reset is an internal step: no command and no transport event clears BUSY. -/
theorem StepCase.internalStep_of_end {s t : State} (h : StepCase s t) (hb : s.status.busy = true)
    (hbt : t.status.busy = false) (hreset : ∀ rest, s.agenda ≠ .reset :: rest) :
    ∃ rest, InternalStep { s with agenda := rest } t := by
  have kept (hk : t.status.busy = s.status.busy) : ∃ rest, InternalStep { s with agenda := rest } t := by
    simp [hk, hb] at hbt
  cases h with
  | urgent _ hstep => exact ⟨s.agenda, hstep⟩
  | internal rest _ _ hstep => exact ⟨rest, hstep⟩
  | idleTick | tick => exact kept (by rw [tickTimers_eq])
  | command _ _ _ _ _ _ _ hx =>
    cases command_cases hx with
    | setCrc | rejected => exact kept rfl
    | accepted hidle => exact absurd (hb.symm.trans hidle) (by decide)
  | reset rest ha => exact absurd ha (hreset rest)
  | internalNone | operand | read | arrive | ready | complete | completeNone => exact kept rfl

/-- The internal steps that end a transaction, each with the condition the order of R228 gives it (R172, R174, R175, R177,
R180, R181). -/
inductive EndingStep (s : State) : State → Prop
  | headerTimeout : s.state = .rxHeader → tRespMs ≤ s.elapsed → EndingStep s (finish .headerTimeout 0 0 s)
  | exception (u) : s.state = .rxHeader → s.elapsed < tRespMs → isException (Memory.read u.rx 1) = true →
      EndingStep s (finish .protocolException (Memory.read u.rx 2) 0 u)
  | tooLarge (u) : s.state = .rxHeader → s.elapsed < tRespMs → isException (Memory.read u.rx 1) = false →
      s.cfg.rxCap < totalLength (Memory.read u.rx 2) → EndingStep s (finish .responseTooLarge 0 0 u)
  | bodyTimeout : s.state = .rxBody → tRespMs ≤ s.elapsed → EndingStep s (finish .bodyTimeout 0 0 s)
  | lastByte (u) : s.state = .rxBody → s.elapsed < tRespMs → u.rxLen = u.total → EndingStep s (checkFrame u)

/-- An internal step that clears BUSY is one of them. -/
theorem InternalStep.ending_cases {s t : State} (h : InternalStep s t) (hb : s.status.busy = true)
    (hbt : t.status.busy = false) : EndingStep s t := by
  cases h with
  | headerTimeout hst hT => exact .headerTimeout hst hT
  | exception b rest hst hT _ _ _ hx => exact .exception _ hst hT hx
  | tooLarge b rest hst hT _ _ _ hx hl => exact .tooLarge _ hst hT hx hl
  | bodyTimeout hst hT => exact .bodyTimeout hst hT
  | lastByte b rest hst hT _ _ hl => exact .lastByte _ hst hT hl
  | beginTransmit | push | beginReceive | headerByte | acceptHeader | bodyByte =>
    exact absurd (hb.symm.trans hbt) (by decide)

/-- Settles O53: the step is an internal one, and the five rows of R192 that clear BUSY have the six outcomes. -/
theorem onlyTheSixOutcomesEndATransaction : Obligations.OnlyTheSixOutcomesEndATransaction := by
  intro s t _ hb h hbt hreset
  obtain ⟨rest, hstep⟩ := (step_cases h).internalStep_of_end hb hbt hreset
  cases hstep.ending_cases hb hbt with
  | headerTimeout hst hT => exact ⟨rfl, rfl, .inl ⟨hst, hT, rfl, rfl⟩⟩
  | exception u hst hT hx => exact ⟨rfl, rfl, .inr (.inl ⟨hst, hT, hx, rfl⟩)⟩
  | tooLarge u hst hT hx hl =>
    have large : s.cfg.rxCap < 5 + (Memory.read u.rx 2).toNat := by
      simp only [totalLength, hdrLen, crcLen] at hl
      omega
    exact ⟨rfl, rfl, .inr (.inr (.inl ⟨hst, hT, hx, large, rfl⟩))⟩
  | bodyTimeout hst hT => exact ⟨rfl, rfl, .inr (.inr (.inr (.inl ⟨hst, hT, rfl, rfl⟩)))⟩
  | lastByte u hst hT hl =>
    rcases checkFrame_cases u with ⟨heq, hc⟩ | ⟨hne, hc⟩ <;> rw [hc]
    · exact ⟨rfl, rfl, .inr (.inr (.inr (.inr (.inr ⟨hst, hT, hl, heq, rfl, rfl⟩))))⟩
    · exact ⟨rfl, rfl, .inr (.inr (.inr (.inr (.inl ⟨hst, hT, hl, hne, rfl⟩))))⟩

/-! ### What each outcome records -/

/-- The part of a state the table of outcomes speaks of. -/
def outcomePart (s : State) : State :=
  { State.reset with
    cfg := s.cfg, status := { State.reset.status with done := s.status.done }, result := s.result, crcCalc := s.crcCalc,
    crcRecv := s.crcRecv, latched := s.latched, rx := s.rx, rxLen := s.rxLen, total := s.total }

theorem headerAccepted_iff (s : State) :
    HeaderAccepted s ↔ isException (Memory.read s.rx 1) = false ∧ s.total.toNat = totalLength (Memory.read s.rx 2) ∧
      s.total.toNat ≤ s.cfg.rxCap :=
  ⟨fun ⟨hn, ht, hf⟩ => ⟨hn, ht, hf⟩, fun ⟨hn, ht, hf⟩ => ⟨hn, ht, hf⟩⟩

theorem crcsRecorded_iff (s : State) :
    CrcsRecorded s ↔ s.crcCalc = crc16 (rxBytes s.rx (s.total.toNat - 2)) ∧
      s.crcRecv = pair (Memory.read s.rx (s.total.toNat - 1)) (Memory.read s.rx (s.total.toNat - 2)) :=
  ⟨fun ⟨hc, hr⟩ => ⟨hc, hr⟩, fun ⟨hc, hr⟩ => ⟨hc, hr⟩⟩

theorem outcomeRecorded_outcomePart (s : State) : OutcomeRecorded (outcomePart s) ↔ OutcomeRecorded s := by
  simp only [OutcomeRecorded, headerAccepted_iff, crcsRecorded_iff]
  rfl

/-- The table goes over to a state with the same outcome part. -/
theorem OutcomeRecorded.of_outcomePart_eq {s t : State} (h : OutcomeRecorded s) (e : outcomePart t = outcomePart s) :
    OutcomeRecorded t :=
  (outcomeRecorded_outcomePart t).1 (e ▸ (outcomeRecorded_outcomePart s).2 h)

/-- Before a completion there is nothing to record. -/
theorem outcomeRecorded_of_not_done {s : State} (h : s.status.done = false) : OutcomeRecorded s :=
  fun hd => absurd (hd.symm.trans h) (by decide)

/-- In RX_BODY the header was accepted (R176). -/
theorem BlockInv.headerAccepted {s : State} (h : BlockInv s) (hst : s.state = .rxBody) : HeaderAccepted s :=
  have ⟨_, _, _, htot, hexc⟩ := h.phase_rxBody hst
  ⟨hexc, htot, h.buffer.total⟩

/-- A store behind the header leaves it standing. -/
theorem HeaderAccepted.storedByte {s : State} (h : HeaderAccepted s) (hlen : hdrLen ≤ s.rxLen.toNat) (b : Byte)
    (rest : List Byte) : HeaderAccepted (storedByte b rest s) := by
  have read (i : Nat) (hi : i < hdrLen) : Memory.read (Machine.storedByte b rest s).rx i = Memory.read s.rx i :=
    Memory.read_write_other b (by omega)
  exact ⟨by rw [read 1 (by decide)]; exact h.normal, by rw [read 2 (by decide)]; exact h.total, h.fits⟩

/-- The check of a whole frame behind an accepted header records its outcome (R179-R181). -/
theorem outcomeRecorded_checkFrame {s : State} (hacc : HeaderAccepted s) (hlen : s.rxLen = s.total) :
    OutcomeRecorded (checkFrame s) := by
  obtain ⟨hnormal, htotal, hfits⟩ := hacc
  rcases checkFrame_cases s with ⟨heq, h⟩ | ⟨hne, h⟩ <;> rw [h]
  · exact fun _ => ⟨hlen, ⟨hnormal, htotal, hfits⟩, ⟨rfl, rfl⟩, heq, returnedRegs_toNat s⟩
  · exact fun _ => ⟨hlen, ⟨hnormal, htotal, hfits⟩, ⟨rfl, rfl⟩, hne⟩

/-- Every completion records what R221 gives its outcome. -/
theorem InternalStep.records_outcome {s t : State} (h : InternalStep s t) (hi : BlockInv s) : OutcomeRecorded t := by
  have running := hi.done_off (hi.busy_of_ne_idle h.ne_idle)
  cases h with
  | headerTimeout hst =>
    obtain ⟨-, hlen, htot⟩ := hi.phase_rxHeader hst
    exact fun _ => ⟨hlen, htot⟩
  | exception b rest hst _ _ _ h3 hexc =>
    obtain ⟨-, -, htot⟩ := hi.phase_rxHeader hst
    exact fun _ => ⟨h3, hexc, rfl, htot⟩
  | tooLarge b rest hst _ _ _ h3 hexc hl =>
    obtain ⟨-, -, htot⟩ := hi.phase_rxHeader hst
    exact fun _ => ⟨h3, htot, hexc, hl⟩
  | bodyTimeout hst =>
    obtain ⟨-, hlow, hlt, -, -⟩ := hi.phase_rxBody hst
    obtain ⟨hnormal, htotal, hfits⟩ := hi.headerAccepted hst
    exact fun _ => ⟨hlow, hlt, hnormal, htotal, hfits⟩
  | lastByte b rest hst _ _ _ hl =>
    obtain ⟨-, hlow, -, -, -⟩ := hi.phase_rxBody hst
    exact outcomeRecorded_checkFrame ((hi.headerAccepted hst).storedByte hlow b rest) hl
  | beginTransmit | push | beginReceive | headerByte | acceptHeader | bodyByte =>
    exact outcomeRecorded_of_not_done running

/-- Every step keeps the table of outcomes. -/
theorem StepCase.keeps_outcomeRecorded {s t : State} (h : StepCase s t) (hi : BlockInv s) (ho : OutcomeRecorded s) :
    OutcomeRecorded t := by
  cases h with
  | urgent _ hstep => exact hstep.records_outcome hi
  | internal _ _ _ hstep => exact hstep.records_outcome (hi.of_invariantPart_eq rfl)
  | idleTick | tick => exact ho.of_outcomePart_eq (by rw [tickTimers_eq]; rfl)
  | command _ _ _ _ _ _ _ hx =>
    cases command_cases hx with
    | setCrc | rejected => exact ho.of_outcomePart_eq rfl
    | accepted => exact outcomeRecorded_of_not_done rfl
  | reset => exact outcomeRecorded_of_not_done rfl
  | internalNone | operand | read | arrive | ready | complete | completeNone => exact ho.of_outcomePart_eq rfl

/-- Settles O51: a completion records its outcome, acceptance and Reset clear DONE, and no other step writes the record. -/
theorem stepKeepsTheOutcomeTable : Obligations.StepKeepsTheOutcomeTable :=
  fun _ _ hi ho h => (step_cases h).keeps_outcomeRecorded hi ho

/-! ### A post-transmit delay that outlasts the deadline -/

/-- Before the window the condition asks nothing but the length of the delay. -/
theorem postDelayOutlastsDeadline_before_window {s : State} (hlong : tRespMs ≤ s.cfg.tPostMs)
    (hst : s.state = .idle ∨ s.state = .preDelay ∨ s.state = .tx) : PostDelayOutlastsDeadline s := by
  refine ⟨hlong, fun h => ?_, fun h => ?_, fun h => ?_⟩ <;> simp [h] at hst

/-- The condition speaks of the delay, STATE and the two timers alone. -/
theorem PostDelayOutlastsDeadline.of_eq {s t : State} (h : PostDelayOutlastsDeadline s) (hcfg : t.cfg = s.cfg)
    (hst : t.state = s.state) (htmr : t.tmr = s.tmr) (hel : t.elapsed = s.elapsed) : PostDelayOutlastsDeadline t :=
  ⟨hcfg ▸ h.long, by rw [hst, htmr, hel]; exact h.postDelay, by rw [hst, hel]; exact h.rxHeader, hst ▸ h.rxBody⟩

/-- RX_HEADER is entered at the deadline, so that its one step is the timeout, which leads to IDLE. -/
theorem InternalStep.keeps_postDelayOutlastsDeadline {s t : State} (h : InternalStep s t)
    (hp : PostDelayOutlastsDeadline s) : PostDelayOutlastsDeadline t := by
  have hlong := hp.long
  cases h with
  | beginTransmit => exact postDelayOutlastsDeadline_before_window hlong (.inr (.inr rfl))
  | push => exact hp.of_eq rfl rfl rfl rfl
  | beginReceive hst hT =>
    have hel := hp.postDelay hst
    have passed : tRespMs ≤ s.elapsed := by omega
    exact ⟨hlong, nofun, fun _ => passed, nofun⟩
  | headerTimeout => exact postDelayOutlastsDeadline_before_window hlong (.inl rfl)
  | headerByte _ _ hst hT | exception _ _ hst hT | tooLarge _ _ hst hT | acceptHeader _ _ hst hT =>
    exact absurd hT (Nat.not_lt.2 (hp.rxHeader hst))
  | bodyTimeout hst | bodyByte _ _ hst | lastByte _ _ hst => exact absurd hst hp.rxBody

/-- In POST_DELAY a Tick moves both timers, in RX_HEADER the deadline stays passed. -/
theorem PostDelayOutlastsDeadline.tickTimers {s : State} (h : PostDelayOutlastsDeadline s) :
    PostDelayOutlastsDeadline (tickTimers s) := by
  refine ⟨by simpa using h.long, fun hst => ?_, fun hst => ?_, by simpa using h.rxBody⟩
  · rw [tickTimers_state] at hst
    have hel := h.postDelay hst
    rw [tickTimers_postDelay hst, tickElapsed_tmr, tickTmr_tmr, tickElapsed_elapsed, tickTmr_elapsed]
    omega
  · rw [tickTimers_state] at hst
    have hel := h.rxHeader hst
    rw [tickTimers_reception (.inl hst), tickElapsed_elapsed]
    omega

/-- Every step keeps the condition. -/
theorem StepCase.keeps_postDelayOutlastsDeadline {s t : State} (h : StepCase s t) (hp : PostDelayOutlastsDeadline s) :
    PostDelayOutlastsDeadline t := by
  have tail (rest : List Label) : PostDelayOutlastsDeadline { s with agenda := rest } := hp.of_eq rfl rfl rfl rfl
  have hlong := hp.long
  cases h with
  | urgent _ hstep => exact hstep.keeps_postDelayOutlastsDeadline hp
  | internal rest _ _ hstep => exact hstep.keeps_postDelayOutlastsDeadline (tail rest)
  | idleTick => exact hp.tickTimers
  | tick rest => exact (tail rest).tickTimers
  | command _ _ _ _ _ _ _ hx =>
    cases command_cases hx with
    | setCrc | rejected => exact hp.of_eq rfl rfl rfl rfl
    | accepted => exact postDelayOutlastsDeadline_before_window hlong (.inr (.inl rfl))
  | complete => exact ⟨hlong, fun _ => Nat.zero_le _, nofun, nofun⟩
  | reset => exact postDelayOutlastsDeadline_before_window hlong (.inl rfl)
  | internalNone | operand | read | arrive | ready | completeNone => exact hp.of_eq rfl rfl rfl rfl

/-- Settles O59: the condition holds before the window, every step keeps it, and of the ends it leaves only HeaderTimeout. -/
theorem longPostDelayLeavesOnlyHeaderTimeout : Obligations.LongPostDelayLeavesOnlyHeaderTimeout := by
  refine ⟨fun s hlong hst => postDelayOutlastsDeadline_before_window hlong hst, fun s t hp h =>
    ⟨(step_cases h).keeps_postDelayOutlastsDeadline hp, fun hb hbt hreset => ?_⟩⟩
  obtain ⟨rest, hstep⟩ := (step_cases h).internalStep_of_end hb hbt hreset
  cases hstep.ending_cases hb hbt with
  | headerTimeout hst => exact ⟨hst, rfl, rfl, rfl⟩
  | exception _ hst hT | tooLarge _ hst hT => exact absurd hT (Nat.not_lt.2 (hp.rxHeader hst))
  | bodyTimeout hst | lastByte _ hst => exact absurd hst hp.rxBody

end Sys2Proof.Machine
end

section
/-! SUPPORT. A transaction step by step (R161-R181): acceptance, the framer, the delays and the transmission, the deadline, and
the parser of the response. -/

namespace Sys2Proof.Machine

/-! ### Acceptance and the framer -/

/-- With RESULT clear, RESULT and every REG slot read 0 (R32, R37). -/
theorem hostRead_results_clear {s : State} (h : s.result = Result.clear) :
    hostRead .word 0x018 s = 0 ∧ ∀ i : Fin 128, hostRead .word (BitVec.ofNat 12 (0x100 + 4 * i.val)) s = 0 := by
  refine ⟨?_, fun i => ?_⟩
  · rw [hostRead_eq_readReg (r := .result) rfl, readReg, h]
    rfl
  · rw [hostRead_reg, regView, h]
    exact if_neg (Nat.not_lt_zero _)

/-- Settles O22: acceptance is one update of the state, and RESULT is clear from it until the transaction ends. -/
theorem readHoldingAcceptedWhenNotBusy : Obligations.ReadHoldingAcceptedWhenNotBusy :=
  ⟨fun _ hb => ⟨_, exec_readHolding_accepted hb, rfl, hostRead_results_clear rfl⟩,
    fun _ hi hb => hostRead_results_clear (hi.result.clear (hi.done_off hb))⟩

/-- Settles O24: acceptance clears the four registers, and with RXLEN = 0 no RXBYTE slot shows the buffer. -/
theorem acceptanceHidesPreviousResults : Obligations.AcceptanceHidesPreviousResults := by
  intro s hb
  obtain ⟨result, regs⟩ := hostRead_results_clear (acceptTransaction_result s)
  have lengths : rxInfoWord 0 0 = 0 := by decide
  have crcs : rxCrcWord 0 0 = 0 := by decide
  refine ⟨_, exec_readHolding_accepted hb, result, ?rxinfo, ?rxcrc, regs, fun j => ?rxbyte⟩
  case rxinfo => exact (hostRead_eq_readReg (r := .rxinfo) rfl _).trans lengths
  case rxcrc => exact (hostRead_eq_readReg (r := .rxcrc) rfl _).trans crcs
  case rxbyte =>
    rw [hostRead_rxbyte, rxByteView]
    exact if_neg (Nat.not_lt_zero _)

/-- The request of the rule's example and its CRC (R162). -/
theorem requestFrame_example :
    requestFrame 0x01 0x0048 0x0009 = #v[0x01, 0x03, 0x00, 0x48, 0x00, 0x09, 0x05, 0xDA] ∧
      requestCrc 0x01 0x0048 0x0009 = 0xDA05 := by
  decide +kernel

/-- Settles O25: the framer's one update, on the rule's example, and on the operands an acceptance has already framed. -/
theorem framerBuildsRequest : Obligations.FramerBuildsRequest := by
  refine ⟨fun _ _ _ _ => rfl, fun s => ?_, fun s hb => ⟨_, exec_readHolding_accepted hb, rfl⟩⟩
  obtain ⟨frame, crc⟩ := requestFrame_example
  show Host.Outcome.next (frameRequest 0x01 0x0048 0x0009 s) = _
  rw [frameRequest, frame, crc]

/-! ### Delays, transmission and time -/

/-- An internal label where no internal step is enabled passes. -/
theorem step_internal_disabled {s : State} {rest : List Label} (ha : s.agenda = .internal :: rest)
    (he : internalEnabled s = false) : step s = .next { s with agenda := rest } :=
  (step_internal ha).trans (internalStep_disabled (s := { s with agenda := rest }) he)

/-- A TxComplete that is not enabled passes. -/
theorem step_txComplete_disabled {s : State} {rest : List Label} (ha : s.agenda = .txComplete :: rest)
    (he : txCompleteEnabled s = false) : step s = .next { s with agenda := rest } := by
  have hrun : step s = runLabel .txComplete { s with agenda := rest } := by simp [step, nextStep, ha]
  exact hrun.trans (if_neg (Bool.eq_false_iff.1 he))

/-- TxComplete is enabled in TX after the eighth push (R167). -/
theorem txCompleteEnabled_iff (s : State) : txCompleteEnabled s = true ↔ s.state = .tx ∧ s.txIdx = 8 := by
  rw [← BitVec.toNat_inj, txCompleteEnabled, Bool.and_eq_true, decide_eq_true_iff, decide_eq_true_iff]
  rfl

/-- Settles O27: each of the three steps where its condition holds, and the label that passes where it does not. -/
theorem delayEndsAndPushes : Obligations.DelayEndsAndPushes := by
  intro s rest ha
  refine ⟨fun hst => ?preDelay, fun hst hidx => ?push, fun hst hidx => ?pushed, fun hst => ?postDelay⟩
  case preDelay =>
    split
    · next hT => exact (step_internal ha).trans (internalStep_preDelay hst hT)
    · next hT => exact step_internal_disabled ha (by simp [internalEnabled, hst, hT])
  case push =>
    split
    · next hr =>
      rw [← reqByte_eq hidx]
      exact (step_internal ha).trans (internalStep_tx hst hidx hr)
    · next hr => exact step_internal_disabled ha (by simp [internalEnabled, hst, hr])
  case pushed => exact step_internal_disabled ha (by simp [internalEnabled, hst, reqLen, Nat.not_lt.2 hidx])
  case postDelay =>
    split
    · next hT => exact (step_internal ha).trans (internalStep_postDelay hst hT)
    · next hT => exact step_internal_disabled ha (by simp [internalEnabled, hst, hT])

/-- Settles O31: TxComplete is enabled there, and its effect is the end of transmission. -/
theorem txCompleteOpensTheDeadlineWindow : Obligations.TxCompleteOpensTheDeadlineWindow :=
  fun s _ ha hst hidx => step_txComplete ha ((txCompleteEnabled_iff s).2 ⟨hst, hidx⟩)

/-- Settles O32: a TxComplete needs TX and TXIDX = 8, an internal label a step that is enabled. -/
theorem labelsNotEnabledPassWithoutEffect : Obligations.LabelsNotEnabledPassWithoutEffect := by
  refine fun s rest => ⟨fun ha hoff => step_txComplete_disabled ha ?_, step_internal_disabled⟩
  rw [Bool.eq_false_iff, Ne, txCompleteEnabled_iff]
  exact not_and_or.2 hoff

theorem tickTimers_idle {s : State} (h : s.state = .idle) : tickTimers s = s := by simp [tickTimers, h]

theorem tickTimers_preDelay {s : State} (h : s.state = .preDelay) : tickTimers s = tickTmr s := by simp [tickTimers, h]

/-- Settles O34: a Tick that is enabled is the one of its STATE. -/
theorem tickAdvancesTheTimersOfItsState : Obligations.TickAdvancesTheTimersOfItsState := by
  intro s rest ha he
  have becomes {t : State} (e : tickTimers { s with agenda := rest } = t) : step s = .next t := e ▸ step_tick ha he
  refine ⟨?still, fun hst => becomes (tickTimers_preDelay hst), fun hst => becomes (tickTimers_postDelay hst),
    fun hst => becomes (tickTimers_reception hst)⟩
  case still =>
    rintro (hst | hst)
    · exact becomes (tickTimers_idle hst)
    · exact becomes (tickTimers_tx hst)

/-- Settles O36: at the deadline the internal step of a reception is the timeout. -/
theorem deadlineEndsTheReadWithoutPopping : Obligations.DeadlineEndsTheReadWithoutPopping :=
  fun _ _ ha hT => ⟨fun hst => (step_internal ha).trans (internalStep_headerTimeout hst hT),
    fun hst => (step_internal ha).trans (internalStep_bodyTimeout hst hT)⟩

/-! ### The parser of the response -/

/-- Settles O37: the pop stores the byte, and the examination runs the response the header decodes to. -/
theorem thirdHeaderByteRunsTheDecodedResponse : Obligations.ThirdHeaderByteRunsTheDecodedResponse := by
  intro s rest b q ha hst hT hq hlen stored
  have hcap : s.rxLen.toNat < s.cfg.rxCap := by
    have := (Config.rxCap_range s.cfg).1
    omega
  have hsucc : (s.rxLen + 1).toNat = s.rxLen.toNat + 1 := rxLen_succ hcap
  have pop : step s = afterHeaderByte stored := (step_internal ha).trans (internalStep_headerPop hst hT hq hcap)
  refine ⟨fun hlow => pop.trans (if_neg ?_), fun hlast i hi => ?_⟩
  · simp only [stored, hsucc, hdrLen]
    omega
  · have examined : afterHeaderByte stored = examineHeader stored := if_pos (by simp only [stored, hsucc, hlast, hdrLen])
    cases hi
    exact pop.trans examined

/-- Settles O38: bit 7 of the second byte alone makes a header RSPX, whose meaning is one completion. -/
theorem exceptionResponseFailsFast : Obligations.ExceptionResponseFailsFast :=
  ⟨fun _ _ _ hx => congrArg Except.ok (if_pos hx), fun _ _ _ _ => rfl⟩

/-- Settles O39: bit 7 clear makes a header RSPN, which is sized before anything else. -/
theorem normalResponseIsSizedByItsByteCount : Obligations.NormalResponseIsSizedByItsByteCount := by
  refine ⟨fun _ _ _ hx => congrArg Except.ok (if_neg (Bool.eq_false_iff.1 hx)), fun s _ _ n => ?_⟩
  have size : totalLength n = 5 + n.toNat := by simp only [totalLength, hdrLen, crcLen]; omega
  rw [← size]
  exact ⟨fun hl => exec_rspn_tooLarge hl, fun hl => ⟨_, exec_rspn_fits hl, rfl, toNat_ofNat_totalLength n⟩⟩

/-- Settles O40: the pop stores the byte, and where it is the last one of TOTAL the check of the frame has two ends. -/
theorem lastBodyByteChecksTheFrame : Obligations.LastBodyByteChecksTheFrame := by
  intro s rest b q ha hst hT hq hlen hfit m stored c r
  have hcap : s.rxLen.toNat < s.cfg.rxCap := Nat.lt_of_lt_of_le hlen hfit
  have last : s.rxLen + 1 = s.total ↔ s.rxLen.toNat + 1 = s.total.toNat := by
    rw [← BitVec.toNat_inj, rxLen_succ hcap]
  have pop : step s = if s.rxLen + 1 = s.total then .next (checkFrame stored) else .next stored :=
    (step_internal ha).trans (internalStep_bodyPop hst hT hq hcap)
  have checked (hl : s.rxLen.toNat + 1 = s.total.toNat) : step s = .next (checkFrame stored) :=
    pop.trans (if_pos (last.2 hl))
  refine ⟨fun hl => pop.trans (if_neg fun h => hl.ne (last.1 h)), fun hl hne => ?mismatch, fun hl heq => ?success⟩
  case mismatch =>
    obtain ⟨-, ends⟩ := (checkFrame_cases stored).resolve_left fun h => hne h.1
    rw [checked hl, ends]
    rfl
  case success =>
    obtain ⟨-, ends⟩ := (checkFrame_cases stored).resolve_right fun h => h.1 heq
    rw [checked hl, ends]
    rfl

/-- Settles O41: three steps store the header and run it, and both responses complete on the spot. -/
theorem headerAloneDecidesEarlyFailures : Obligations.HeaderAloneDecidesEarlyFailures := by
  intro s b0 b1 b2 more ha hst hlen hT hwf hq
  have hzero : s.rxLen.toNat = 0 := congrArg BitVec.toNat hlen
  have run := runSteps_header ha hst hzero hT hwf hq
  have inq : (storedBytes [b0, b1, b2] s).inq = more := storedBytes_inq (p := [b0, b1, b2]) hq
  have len : (storedBytes [b0, b1, b2] s).rxLen = 3 := BitVec.eq_of_toNat_eq (rxLen_header hzero b0 b1 b2)
  have total := storedBytes_total [b0, b1, b2] s
  refine ⟨fun hx => ?exception, fun hx hl => ?tooLarge⟩
  case exception =>
    rw [decodeHeader, if_pos hx] at run
    exact ⟨_, run, rfl, inq, len, total, rfl, rxBytes_header hzero hwf b0 b1 b2⟩
  case tooLarge =>
    have large : (storedBytes [b0, b1, b2] s).cfg.rxCap < totalLength b2 := by
      simp only [storedBytes_cfg, totalLength, hdrLen, crcLen]
      omega
    rw [decodeHeader, if_neg (Bool.eq_false_iff.1 hx), exec_rspn_tooLarge large] at run
    exact ⟨_, run, rfl, inq, len, total, rfl⟩

/-! ### A silent host and transport -/

/-- With the agenda empty and no internal step enabled, time passes. -/
theorem step_silent_tick {s : State} (ha : s.agenda = []) (he : internalEnabled s = false) :
    step s = .next (tickTimers s) := by
  simp [step, nextStep, ha, runAlone, he]

/-- Left alone in POST_DELAY, both timers count the Ticks of the delay (R168, R169). -/
theorem runSteps_postDelay (n : Nat) : ∀ s : State, s.agenda = [] → s.state = .postDelay →
    s.tmr + n ≤ s.cfg.tPostMs → s.elapsed ≤ tRespMs →
    runSteps n s = .next { s with tmr := s.tmr + n, elapsed := min (s.elapsed + n) tRespMs } := by
  induction n with
  | zero =>
    intro s _ _ _ hE
    rw [runSteps_zero, Nat.add_zero, Nat.add_zero, min_eq_left hE]
  | succ n ih =>
    intro s ha hst hn hE
    have he : internalEnabled s = false := by
      simp only [internalEnabled, hst, decide_eq_false_iff_not]
      omega
    have htmr : min (s.tmr + 1) (tmrLimit s.cfg) = s.tmr + 1 := min_eq_left (by rw [tmrLimit]; omega)
    have htick : tickTimers s = { s with tmr := s.tmr + 1, elapsed := min (s.elapsed + 1) tRespMs } := by
      rw [tickTimers_postDelay hst, ← htmr]
      rfl
    have sum : s.tmr + 1 + n = s.tmr + (n + 1) := by omega
    have clipped : min (min (s.elapsed + 1) tRespMs + n) tRespMs = min (s.elapsed + (n + 1)) tRespMs := by omega
    have run := ih { s with tmr := s.tmr + 1, elapsed := min (s.elapsed + 1) tRespMs } ha hst (sum.trans_le hn)
      (Nat.min_le_right _ _)
    simp only [sum, clipped] at run
    rw [runSteps_succ (step_silent_tick ha he), htick, run]

/-- Left alone at the end of POST_DELAY with the deadline passed, the block begins to receive and times out (R170, R172). -/
theorem runSteps_lateHeader {s : State} (ha : s.agenda = []) (hst : s.state = .postDelay) (hT : s.cfg.tPostMs ≤ s.tmr)
    (hE : tRespMs ≤ s.elapsed) : runSteps 2 s = .next (finish .headerTimeout 0 0 (beginReceive s)) := by
  have begins : step s = .next (beginReceive s) :=
    (step_alone ha (by simp [internalEnabled, hst, hT])).trans (internalStep_postDelay hst hT)
  rw [runSteps_succ begins, runSteps_one]
  exact (step_alone (s := beginReceive s) ha (by simp [internalEnabled, hE])).trans (internalStep_headerTimeout rfl hE)

/-- Settles O44: T_POST_MS Ticks, the end of the delay, and the timeout, for the deadline passed during the delay. -/
theorem longPostDelayAlwaysTimesOut : Obligations.LongPostDelayAlwaysTimesOut := by
  intro s hi hst htmr hel hlong ha
  obtain ⟨-, hlen, -⟩ := hi.phase_postDelay hst
  have ticks := runSteps_postDelay s.cfg.tPostMs s ha hst (by omega) hi.timers.elapsed
  have passed : tRespMs ≤ min (s.elapsed + s.cfg.tPostMs) tRespMs := by
    rw [tRespMs]
    omega
  exact ⟨_, (runSteps_add ticks 2).trans (runSteps_lateHeader ha hst (Nat.le_add_left _ _) passed), rfl, rfl, hlen, rfl⟩

end Sys2Proof.Machine
end

section
/-! SUPPORT. The last byte of a body against the deadline (R229): the byte that comes before the Tick is popped before it, the byte
that comes after it stays in the queue. -/

namespace Sys2Proof.Machine

/-! ### The steps of the race -/

/-- An arrival puts the byte behind the queue (R23). -/
theorem step_rxArrive {s : State} {b : Byte} {rest : List Label} (ha : s.agenda = .rxArrive b :: rest) :
    step s = .next { s with agenda := rest, inq := s.inq ++ [b] } := by
  simp [step, nextStep, ha, runLabel]

@[simp] theorem checkFrame_elapsed (s : State) : (checkFrame s).elapsed = s.elapsed := by rw [checkFrame_eq]

/-- The two kinds the check of a frame can record (R180, R181). -/
theorem checkFrame_errKind (s : State) :
    (checkFrame s).result.errKind = .none ∨ (checkFrame s).result.errKind = .crcMismatch := by
  rcases checkFrame_cases s with ⟨-, ends⟩ | ⟨-, ends⟩ <;> rw [ends]
  · exact .inl rfl
  · exact .inr rfl

/-- The pop of the last byte due is the check of the frame (R178, R179). -/
theorem internalStep_lastByte {s : State} {b : Byte} {q : List Byte} (hst : s.state = .rxBody) (hT : s.elapsed < tRespMs)
    (hq : s.inq = b :: q) (hlen : s.rxLen.toNat + 1 = s.total.toNat) (hfit : s.total.toNat ≤ s.cfg.rxCap) :
    internalStep s = .next (checkFrame (storedByte b q s)) := by
  have hcap : s.rxLen.toNat < s.cfg.rxCap := by omega
  have last : s.rxLen + 1 = s.total := BitVec.eq_of_toNat_eq ((rxLen_succ hcap).trans hlen)
  rw [internalStep_bodyPop hst hT hq hcap]
  exact if_pos last

/-! ### The two orders -/

/-- The last byte comes first: the Tick waits while it is popped, and the frame is checked. -/
theorem runSteps_lastByteThenTick {s : State} {b : Byte} {rest : List Label} (ha : s.agenda = .rxArrive b :: .tick :: rest)
    (hst : s.state = .rxBody) (hT : s.elapsed < tRespMs) (hq : s.inq = []) (hlen : s.rxLen.toNat + 1 = s.total.toNat)
    (hfit : s.total.toNat ≤ s.cfg.rxCap) :
    runSteps 2 s = .next (checkFrame (storedByte b [] { s with agenda := .tick :: rest })) := by
  have arrives : step s = .next { s with agenda := .tick :: rest, inq := [b] } := by rw [step_rxArrive ha, hq]; rfl
  have waiting : internalEnabled { s with agenda := .tick :: rest, inq := [b] } = true :=
    (internalEnabled_iff _).2 (.inr (.inr (.inr ⟨.inr hst, .inr (List.cons_ne_nil _ _)⟩)))
  rw [runSteps_succ arrives, runSteps_one, step_tick_waits rfl waiting]
  exact internalStep_lastByte hst hT rfl hlen hfit

/-- The Tick that reaches the deadline comes first: the byte that follows it is queued and no longer popped. -/
theorem runSteps_deadlineThenByte {s : State} {b : Byte} (ha : s.agenda = [.tick, .rxArrive b]) (hst : s.state = .rxBody)
    (hT : s.elapsed + 1 = tRespMs) (hq : s.inq = []) :
    runSteps 3 s = .next (finish .bodyTimeout 0 0 { s with agenda := [], elapsed := tRespMs, inq := [b] }) := by
  have quiet : internalEnabled s = false := by simp [internalEnabled, hst, hq, ← hT]
  have ticks : step s = .next { s with agenda := [.rxArrive b], elapsed := tRespMs } := by
    rw [step_tick ha quiet, tickTimers_reception (s := { s with agenda := [.rxArrive b] }) (.inr hst), tickElapsed, hT,
      min_self]
  have arrives : step { s with agenda := [.rxArrive b], elapsed := tRespMs } =
      .next { s with agenda := [], elapsed := tRespMs, inq := [b] } := by rw [step_rxArrive rfl, hq]; rfl
  have passed : internalEnabled { s with agenda := [], elapsed := tRespMs, inq := [b] } = true :=
    (internalEnabled_iff _).2 (.inr (.inr (.inr ⟨.inr hst, .inl le_rfl⟩)))
  rw [runSteps_succ ticks, runSteps_succ arrives, runSteps_one, step_alone rfl passed]
  exact internalStep_bodyTimeout hst le_rfl

/-- Settles O45: one order ends in the check of the frame, the other in the timeout. -/
theorem lastByteAndDeadlineInEitherOrder : Obligations.LastByteAndDeadlineInEitherOrder := by
  intro s b hi hst hE hq hlen
  have last : s.elapsed + 1 = tRespMs := congrArg (· + 1) hE
  refine ⟨⟨_, runSteps_lastByteThenTick rfl hst ((Nat.lt_succ_self _).trans_eq last) hq hlen hi.buffer.total,
    ?checked⟩, ⟨_, runSteps_deadlineThenByte rfl hst last hq, rfl, rfl, rfl, rfl⟩⟩
  case checked =>
    exact ⟨checkFrame_state _, checkFrame_done _, checkFrame_inq _, (checkFrame_elapsed _).trans hE, checkFrame_errKind _⟩

end Sys2Proof.Machine
end

section
/-! SUPPORT. The step of Reset (R260): it gives every piece of block state its reset value and leaves the transport alone. -/

namespace Sys2Proof.Machine

/-- A Reset that is next is taken at once, whatever the controller is doing (R260). -/
theorem step_reset {s : State} {rest : List Label} (ha : s.agenda = .reset :: rest) :
    step s = .next (resetBlock { s with agenda := rest }) := by
  simp [step, nextStep, ha, runLabel]

/-- Settles O47: the step is that of `step_reset`, and each field of `resetBlock` is either the constant of R48 or the field of
the state before. -/
theorem resetStepSetsEveryRegister : Obligations.ResetStepSetsEveryRegister := by
  intro s rest ha
  refine ⟨_, step_reset ha, ?_⟩
  and_intros <;> rfl

end Sys2Proof.Machine
end
